-- ==== Sys2Proof/Word.lean ====
section
/-! DEFINITION. The word types of the block (00_scope.md R7 to R9): bit 0 is the least significant bit, every value is unsigned. -/

namespace Sys2Proof

/-- An 8-bit value: a V register, a timer, a byte of memory (R21, R30, R31, R50). -/
abbrev Byte := BitVec 8

/-- A 16-bit value: the instruction word, PC, I, a stack entry (R24, R25, R28, R70). -/
abbrev Word := BitVec 16

/-- A 12-bit address operand NNN (R71). -/
abbrev Addr12 := BitVec 12

end Sys2Proof
end

