-- ==== Sys2Proof/Config.lean ====
section
/-! DEFINITION. The implementation parameters of 00_scope.md R6 at the values this hardware takes, and the values the
spec leaves open, as constants with no body. FONT_BASE and FONT_TABLE stand in Machine/Memory.lean, MEM_ADDR_POLICY (wrap)
in Machine/Ops.lean (`ea`), KEY_INDEX_POLICY (mask) in Machine/Operands.lean (`keyIndex`). -/

namespace Sys2Proof.Config

/-- MEM_SIZE: bytes of memory, addresses 0x000 to 0xFFF (R6, R50). -/
abbrev memSize : Nat := 4096

/-- PROG_BASE: load address and reset PC (R6). -/
abbrev progBase : Nat := 0x200

/-- PROG_MAX: largest program image, 4096 − 0x200 = 3584 bytes (R6, R233). -/
abbrev progMax : Nat := memSize - progBase

/-- NREGS: general registers V0 to VF (R6, R21). -/
abbrev nregs : Nat := 16

/-- STACK_DEPTH: call-stack capacity (R6, R28; the spec's decision D4). -/
abbrev stackDepth : Nat := 16

/-- SCREEN_W: framebuffer columns (R6, R32). -/
abbrev screenW : Nat := 64

/-- SCREEN_H: framebuffer rows (R6, R32). -/
abbrev screenH : Nat := 32

/-- NKEYS: keys 0x0 to 0xF (R6, R33). -/
abbrev nkeys : Nat := 16

/-- FREE VALUE: the n-th byte that `draw_rand8()` answers (R13, R133): any value, no law between two draws. It has no
body, so nothing can be proved of it (entry 2). -/
opaque freeDraw : Nat → Byte

/-- HOST_TICKS_WHEN_NOT_RUNNING (R186, D26, OPEN): whether the host sends ticks while RUN is Paused or Halted. It has no
body (entry 6). -/
opaque hostTicksWhenNotRunning : Bool

end Sys2Proof.Config
end

