-- ==== Sys2Proof/Syntax.lean ====
section
/-! DEFINITION. The instruction set as syntax: one constructor per row of spec/opcode_table.json (30_encoding.md R73), the
reasons a word is unrecognised (R75 to R79), and the operands of an instruction as plain numbers (R72, R83). -/

namespace Sys2Proof

/-- A register number X or Y: V0 to VF (R21, R72). -/
abbrev Reg := Fin Config.nregs

/-- The nibble operand N: a count of sprite rows, 0 to 15 (R72). -/
abbrev Nibble := Fin 16

/-- VF, another name for V[15] (R10, R22). -/
abbrev VF : Reg := 15

/-- The 34 instructions of R73. The operand types hold exactly the values the fields of R71 can take. -/
inductive Instr where
  /-- `00E0` CLS (43_sprite_xor.md R160). -/
  | cls
  /-- `00EE` RET (40_pc_control.md R102). -/
  | ret
  /-- `1NNN` JP addr (40_pc_control.md R103). -/
  | jpAddr (nnn : Addr12)
  /-- `2NNN` CALL addr (40_pc_control.md R104). -/
  | callAddr (nnn : Addr12)
  /-- `3XNN` SE Vx, byte (40_pc_control.md R106). -/
  | seVxByte (x : Reg) (nn : Byte)
  /-- `4XNN` SNE Vx, byte (40_pc_control.md R107). -/
  | sneVxByte (x : Reg) (nn : Byte)
  /-- `5XY0` SE Vx, Vy (40_pc_control.md R108). -/
  | seVxVy (x y : Reg)
  /-- `6XNN` LD Vx, byte (41_alu.md R122). -/
  | ldVxByte (x : Reg) (nn : Byte)
  /-- `7XNN` ADD Vx, byte (41_alu.md R123). -/
  | addVxByte (x : Reg) (nn : Byte)
  /-- `8XY0` LD Vx, Vy (41_alu.md R124). -/
  | ldVxVy (x y : Reg)
  /-- `8XY1` OR Vx, Vy (41_alu.md R125). -/
  | orVxVy (x y : Reg)
  /-- `8XY2` AND Vx, Vy (41_alu.md R126). -/
  | andVxVy (x y : Reg)
  /-- `8XY3` XOR Vx, Vy (41_alu.md R127). -/
  | xorVxVy (x y : Reg)
  /-- `8XY4` ADD Vx, Vy (41_alu.md R128). -/
  | addVxVy (x y : Reg)
  /-- `8XY5` SUB Vx, Vy (41_alu.md R129). -/
  | subVxVy (x y : Reg)
  /-- `8XY6` SHR Vx, Vy (41_alu.md R130). -/
  | shrVxVy (x y : Reg)
  /-- `8XY7` SUBN Vx, Vy (41_alu.md R131). -/
  | subnVxVy (x y : Reg)
  /-- `8XYE` SHL Vx, Vy (41_alu.md R132). -/
  | shlVxVy (x y : Reg)
  /-- `9XY0` SNE Vx, Vy (40_pc_control.md R109). -/
  | sneVxVy (x y : Reg)
  /-- `ANNN` LD I, addr (42_index_memory.md R140). -/
  | ldIAddr (nnn : Addr12)
  /-- `BNNN` JP V0, addr (40_pc_control.md R105). -/
  | jpV0Addr (nnn : Addr12)
  /-- `CXNN` RND Vx, byte (41_alu.md R133). -/
  | rndVxByte (x : Reg) (nn : Byte)
  /-- `DXYN` DRW Vx, Vy, nibble (43_sprite_xor.md R162). -/
  | drwVxVyNibble (x y : Reg) (n : Nibble)
  /-- `EX9E` SKP Vx (44_timers_keys.md R180). -/
  | skpVx (x : Reg)
  /-- `EXA1` SKNP Vx (44_timers_keys.md R181). -/
  | sknpVx (x : Reg)
  /-- `FX07` LD Vx, DT (44_timers_keys.md R182). -/
  | ldVxDT (x : Reg)
  /-- `FX0A` LD Vx, K (44_timers_keys.md R183). -/
  | ldVxK (x : Reg)
  /-- `FX15` LD DT, Vx (44_timers_keys.md R184). -/
  | ldDTVx (x : Reg)
  /-- `FX18` LD ST, Vx (44_timers_keys.md R185). -/
  | ldSTVx (x : Reg)
  /-- `FX1E` ADD I, Vx (42_index_memory.md R141). -/
  | addIVx (x : Reg)
  /-- `FX29` LD F, Vx (42_index_memory.md R142). -/
  | ldFVx (x : Reg)
  /-- `FX33` LD B, Vx (42_index_memory.md R143). -/
  | ldBVx (x : Reg)
  /-- `FX55` LD [I], Vx (42_index_memory.md R144). -/
  | ldMemIVx (x : Reg)
  /-- `FX65` LD Vx, [I] (42_index_memory.md R145). -/
  | ldVxMemI (x : Reg)
  deriving DecidableEq, Repr

/-- Why a word, or a list of bytes, is no instruction. The first six name the class of an unrecognised word (R80). -/
inductive Unrecognised where
  /-- Class 0x0, neither 00E0 nor 00EE (R75). -/
  | class0
  /-- Class 0x5 with a low nibble other than 0 (R76). -/
  | class5
  /-- Class 0x8 with N in 8, 9, A, B, C, D, F (R77). -/
  | class8
  /-- Class 0x9 with a low nibble other than 0 (R76). -/
  | class9
  /-- Class 0xE with NN neither 9E nor A1 (R78). -/
  | classE
  /-- Class 0xF with NN outside the nine values of R79. -/
  | classF
  /-- Fewer than the two bytes an instruction has (R70). Only `decodeBytes` on a short list; a fetch always has two. -/
  | truncated
  deriving DecidableEq, Repr

/-- One row of the opcode map: a word op matches when `op AND mask == value` (R73). -/
structure OpcodeRow where
  mnemonic : String
  mask : Word
  value : Word
  deriving DecidableEq, Repr

/-- An operand as a number, the way an assembler reads it (R83). -/
inductive Operand where
  /-- A register operand V0 to VF. -/
  | reg (number : Nat)
  /-- A `byte` operand, which fills NN. -/
  | byte (number : Nat)
  /-- An `addr` operand, which fills NNN. -/
  | addr (number : Nat)
  /-- A `nibble` operand, which fills N. -/
  | nibble (number : Nat)
  deriving DecidableEq, Repr

end Sys2Proof
end

