-- ==== Sys2Proof/WellFormed.lean ====
section
/-! DEFINITION. What makes an instruction well formed: every operand in the range its field admits (30_encoding.md R72,
R83). The types of `Instr` already hold exactly those ranges, so every `Instr` is well formed (Laws/Decode.lean proves it);
the check itself is on operands as numbers, where it can refuse. -/

namespace Sys2Proof

/-- Register numbers 0 to 15, bytes below 256, addresses below 4096, nibbles below 16 (R72). -/
def Operand.inRange : Operand → Bool
  | .reg n => decide (n < Config.nregs)
  | .byte n => decide (n < 256)
  | .addr n => decide (n < 4096)
  | .nibble n => decide (n < 16)

/-- The operands of an instruction, in the order of its assembler form (R83). -/
def Instr.operands : Instr → List Operand
  | .cls => []
  | .ret => []
  | .jpAddr nnn => [.addr nnn.toNat]
  | .callAddr nnn => [.addr nnn.toNat]
  | .seVxByte x nn => [.reg x.val, .byte nn.toNat]
  | .sneVxByte x nn => [.reg x.val, .byte nn.toNat]
  | .seVxVy x y => [.reg x.val, .reg y.val]
  | .ldVxByte x nn => [.reg x.val, .byte nn.toNat]
  | .addVxByte x nn => [.reg x.val, .byte nn.toNat]
  | .ldVxVy x y => [.reg x.val, .reg y.val]
  | .orVxVy x y => [.reg x.val, .reg y.val]
  | .andVxVy x y => [.reg x.val, .reg y.val]
  | .xorVxVy x y => [.reg x.val, .reg y.val]
  | .addVxVy x y => [.reg x.val, .reg y.val]
  | .subVxVy x y => [.reg x.val, .reg y.val]
  | .shrVxVy x y => [.reg x.val, .reg y.val]
  | .subnVxVy x y => [.reg x.val, .reg y.val]
  | .shlVxVy x y => [.reg x.val, .reg y.val]
  | .sneVxVy x y => [.reg x.val, .reg y.val]
  | .ldIAddr nnn => [.addr nnn.toNat]
  | .jpV0Addr nnn => [.addr nnn.toNat]
  | .rndVxByte x nn => [.reg x.val, .byte nn.toNat]
  | .drwVxVyNibble x y n => [.reg x.val, .reg y.val, .nibble n.val]
  | .skpVx x => [.reg x.val]
  | .sknpVx x => [.reg x.val]
  | .ldVxDT x => [.reg x.val]
  | .ldVxK x => [.reg x.val]
  | .ldDTVx x => [.reg x.val]
  | .ldSTVx x => [.reg x.val]
  | .addIVx x => [.reg x.val]
  | .ldFVx x => [.reg x.val]
  | .ldBVx x => [.reg x.val]
  | .ldMemIVx x => [.reg x.val]
  | .ldVxMemI x => [.reg x.val]

/-- Every operand of the instruction is in range. -/
def Instr.wellFormed (i : Instr) : Bool := i.operands.all Operand.inRange

end Sys2Proof
end

