-- ==== Sys2Proof/Decode.lean ====
section
/-! DEFINITION. The decoder of 30_encoding.md: the fields of R71, the two-level dispatch of R74, total on every word (R82)
and rejecting by name (R75 to R79); then the encoder, written from the patterns of R73, and the opcode map of R73 itself. -/

namespace Sys2Proof

/-- class: `op[15:12]` (R71). -/
def fieldClass (op : Word) : BitVec 4 := op.extractLsb' 12 4

/-- X: `op[11:8]` (R71). -/
def fieldX (op : Word) : Reg := (op.extractLsb' 8 4).toFin

/-- Y: `op[7:4]` (R71). -/
def fieldY (op : Word) : Reg := (op.extractLsb' 4 4).toFin

/-- N: `op[3:0]` (R71). -/
def fieldN (op : Word) : Nibble := (op.extractLsb' 0 4).toFin

/-- NN: `op[7:0]` (R71). -/
def fieldNN (op : Word) : Byte := op.extractLsb' 0 8

/-- NNN: `op[11:0]` (R71). -/
def fieldNNN (op : Word) : Addr12 := op.extractLsb' 0 12

/-- Second level of class 0x0: all of NNN is the key, so the X digit is checked (R74, R75). -/
def decodeClass0 (op : Word) : Except Unrecognised Instr :=
  match (fieldNNN op).toNat with
  | 0x0E0 => .ok .cls
  | 0x0EE => .ok .ret
  | _ => .error .class0

/-- Second level of class 0x5: N must be 0 (R76). -/
def decodeClass5 (op : Word) : Except Unrecognised Instr :=
  match (fieldN op).val with
  | 0x0 => .ok (.seVxVy (fieldX op) (fieldY op))
  | _ => .error .class5

/-- Second level of class 0x8: N selects the operation (R77). -/
def decodeClass8 (op : Word) : Except Unrecognised Instr :=
  match (fieldN op).val with
  | 0x0 => .ok (.ldVxVy (fieldX op) (fieldY op))
  | 0x1 => .ok (.orVxVy (fieldX op) (fieldY op))
  | 0x2 => .ok (.andVxVy (fieldX op) (fieldY op))
  | 0x3 => .ok (.xorVxVy (fieldX op) (fieldY op))
  | 0x4 => .ok (.addVxVy (fieldX op) (fieldY op))
  | 0x5 => .ok (.subVxVy (fieldX op) (fieldY op))
  | 0x6 => .ok (.shrVxVy (fieldX op) (fieldY op))
  | 0x7 => .ok (.subnVxVy (fieldX op) (fieldY op))
  | 0xE => .ok (.shlVxVy (fieldX op) (fieldY op))
  | _ => .error .class8

/-- Second level of class 0x9: N must be 0 (R76). -/
def decodeClass9 (op : Word) : Except Unrecognised Instr :=
  match (fieldN op).val with
  | 0x0 => .ok (.sneVxVy (fieldX op) (fieldY op))
  | _ => .error .class9

/-- Second level of class 0xE: NN selects the operation (R78). -/
def decodeClassE (op : Word) : Except Unrecognised Instr :=
  match (fieldNN op).toNat with
  | 0x9E => .ok (.skpVx (fieldX op))
  | 0xA1 => .ok (.sknpVx (fieldX op))
  | _ => .error .classE

/-- Second level of class 0xF: NN selects the operation (R79). -/
def decodeClassF (op : Word) : Except Unrecognised Instr :=
  match (fieldNN op).toNat with
  | 0x07 => .ok (.ldVxDT (fieldX op))
  | 0x0A => .ok (.ldVxK (fieldX op))
  | 0x15 => .ok (.ldDTVx (fieldX op))
  | 0x18 => .ok (.ldSTVx (fieldX op))
  | 0x1E => .ok (.addIVx (fieldX op))
  | 0x29 => .ok (.ldFVx (fieldX op))
  | 0x33 => .ok (.ldBVx (fieldX op))
  | 0x55 => .ok (.ldMemIVx (fieldX op))
  | 0x65 => .ok (.ldVxMemI (fieldX op))
  | _ => .error .classF

/-- The decoder (R73, R74, R82): first level on the class, second level where R74 names a key. The last arm is class 0xF,
the only value left of a 4-bit field. -/
def decode (op : Word) : Except Unrecognised Instr :=
  match (fieldClass op).toNat with
  | 0x0 => decodeClass0 op
  | 0x1 => .ok (.jpAddr (fieldNNN op))
  | 0x2 => .ok (.callAddr (fieldNNN op))
  | 0x3 => .ok (.seVxByte (fieldX op) (fieldNN op))
  | 0x4 => .ok (.sneVxByte (fieldX op) (fieldNN op))
  | 0x5 => decodeClass5 op
  | 0x6 => .ok (.ldVxByte (fieldX op) (fieldNN op))
  | 0x7 => .ok (.addVxByte (fieldX op) (fieldNN op))
  | 0x8 => decodeClass8 op
  | 0x9 => decodeClass9 op
  | 0xA => .ok (.ldIAddr (fieldNNN op))
  | 0xB => .ok (.jpV0Addr (fieldNNN op))
  | 0xC => .ok (.rndVxByte (fieldX op) (fieldNN op))
  | 0xD => .ok (.drwVxVyNibble (fieldX op) (fieldY op) (fieldN op))
  | 0xE => decodeClassE op
  | _ => decodeClassF op

/-- The word of two bytes as memory holds them: the first byte, at the lower address, is the most significant (R52). -/
def wordOfBytes (hi lo : Byte) : Word := hi ++ lo

/-- Bits 15:8 of a word, the byte at the lower address (R52). -/
def highByte (op : Word) : Byte := op.extractLsb' 8 8

/-- Bits 7:0 of a word, the byte at the higher address (R52). -/
def lowByte (op : Word) : Byte := op.extractLsb' 0 8

/-- The decoder over a list of bytes: it always consumes 2 bytes (R70) and answers the rest of the list. -/
def decodeBytes : List Byte → Except Unrecognised (Instr × List Byte)
  | hi :: lo :: rest =>
    match decode (wordOfBytes hi lo) with
    | .ok i => .ok (i, rest)
    | .error e => .error e
  | _ => .error .truncated

/-- The instruction the decoder reads from a word whose bits are w (bit 0 the least significant bit of the 16-bit word, as
spec/opcode_table.json numbers them), its bits from nbits up being 0: the word is laid out in bytes, high byte first. -/
def decodeTableWord (nbits w : Nat) : Option Instr :=
  let op : Word := BitVec.ofNat 16 (w % 2 ^ nbits)
  match decodeBytes [highByte op, lowByte op] with
  | .ok (i, _) => some i
  | .error _ => none

/-- A register number or nibble as the 4 bits of its field. -/
def nibbleBits (x : Fin 16) : BitVec 4 := BitVec.ofFin x

/-- The word `c : NNN` (R71; `++` is R8's `a : b`). -/
def wordNNN (c : BitVec 4) (nnn : Addr12) : Word := c ++ nnn

/-- The word `c : X : NN` (R71). -/
def wordXNN (c : BitVec 4) (x : Reg) (nn : Byte) : Word := c ++ nibbleBits x ++ nn

/-- The word `c : X : Y : N` (R71). -/
def wordXYN (c : BitVec 4) (x y : Reg) (n : Nibble) : Word := c ++ nibbleBits x ++ nibbleBits y ++ nibbleBits n

/-- The encoder: the word of an instruction, digit by digit from the patterns of R73. -/
def encode : Instr → Word
  | .cls => wordXYN 0x0 0x0 0xE 0x0
  | .ret => wordXYN 0x0 0x0 0xE 0xE
  | .jpAddr nnn => wordNNN 0x1 nnn
  | .callAddr nnn => wordNNN 0x2 nnn
  | .seVxByte x nn => wordXNN 0x3 x nn
  | .sneVxByte x nn => wordXNN 0x4 x nn
  | .seVxVy x y => wordXYN 0x5 x y 0x0
  | .ldVxByte x nn => wordXNN 0x6 x nn
  | .addVxByte x nn => wordXNN 0x7 x nn
  | .ldVxVy x y => wordXYN 0x8 x y 0x0
  | .orVxVy x y => wordXYN 0x8 x y 0x1
  | .andVxVy x y => wordXYN 0x8 x y 0x2
  | .xorVxVy x y => wordXYN 0x8 x y 0x3
  | .addVxVy x y => wordXYN 0x8 x y 0x4
  | .subVxVy x y => wordXYN 0x8 x y 0x5
  | .shrVxVy x y => wordXYN 0x8 x y 0x6
  | .subnVxVy x y => wordXYN 0x8 x y 0x7
  | .shlVxVy x y => wordXYN 0x8 x y 0xE
  | .sneVxVy x y => wordXYN 0x9 x y 0x0
  | .ldIAddr nnn => wordNNN 0xA nnn
  | .jpV0Addr nnn => wordNNN 0xB nnn
  | .rndVxByte x nn => wordXNN 0xC x nn
  | .drwVxVyNibble x y n => wordXYN 0xD x y n
  | .skpVx x => wordXNN 0xE x 0x9E
  | .sknpVx x => wordXNN 0xE x 0xA1
  | .ldVxDT x => wordXNN 0xF x 0x07
  | .ldVxK x => wordXNN 0xF x 0x0A
  | .ldDTVx x => wordXNN 0xF x 0x15
  | .ldSTVx x => wordXNN 0xF x 0x18
  | .addIVx x => wordXNN 0xF x 0x1E
  | .ldFVx x => wordXNN 0xF x 0x29
  | .ldBVx x => wordXNN 0xF x 0x33
  | .ldMemIVx x => wordXNN 0xF x 0x55
  | .ldVxMemI x => wordXNN 0xF x 0x65

/-- The two bytes of an instruction in the order memory holds them (R52). -/
def encodeBytes (i : Instr) : List Byte := [highByte (encode i), lowByte (encode i)]

/-- The row of spec/opcode_table.json an instruction belongs to. -/
def Instr.mnemonic : Instr → String
  | .cls => "CLS"
  | .ret => "RET"
  | .jpAddr _ => "JP_addr"
  | .callAddr _ => "CALL_addr"
  | .seVxByte _ _ => "SE_Vx__byte"
  | .sneVxByte _ _ => "SNE_Vx__byte"
  | .seVxVy _ _ => "SE_Vx__Vy"
  | .ldVxByte _ _ => "LD_Vx__byte"
  | .addVxByte _ _ => "ADD_Vx__byte"
  | .ldVxVy _ _ => "LD_Vx__Vy"
  | .orVxVy _ _ => "OR_Vx__Vy"
  | .andVxVy _ _ => "AND_Vx__Vy"
  | .xorVxVy _ _ => "XOR_Vx__Vy"
  | .addVxVy _ _ => "ADD_Vx__Vy"
  | .subVxVy _ _ => "SUB_Vx__Vy"
  | .shrVxVy _ _ => "SHR_Vx__Vy"
  | .subnVxVy _ _ => "SUBN_Vx__Vy"
  | .shlVxVy _ _ => "SHL_Vx__Vy"
  | .sneVxVy _ _ => "SNE_Vx__Vy"
  | .ldIAddr _ => "LD_I__addr"
  | .jpV0Addr _ => "JP_V0__addr"
  | .rndVxByte _ _ => "RND_Vx__byte"
  | .drwVxVyNibble _ _ _ => "DRW_Vx__Vy__nibble"
  | .skpVx _ => "SKP_Vx"
  | .sknpVx _ => "SKNP_Vx"
  | .ldVxDT _ => "LD_Vx__DT"
  | .ldVxK _ => "LD_Vx__K"
  | .ldDTVx _ => "LD_DT__Vx"
  | .ldSTVx _ => "LD_ST__Vx"
  | .addIVx _ => "ADD_I__Vx"
  | .ldFVx _ => "LD_F__Vx"
  | .ldBVx _ => "LD_B__Vx"
  | .ldMemIVx _ => "LD__I___Vx"
  | .ldVxMemI _ => "LD_Vx___I"

/-- Rows 00E0 to 7XNN of R73. -/
def opcodeRowsLow : List OpcodeRow := [
  { mnemonic := "CLS", mask := 0xFFFF, value := 0x00E0 },
  { mnemonic := "RET", mask := 0xFFFF, value := 0x00EE },
  { mnemonic := "JP_addr", mask := 0xF000, value := 0x1000 },
  { mnemonic := "CALL_addr", mask := 0xF000, value := 0x2000 },
  { mnemonic := "SE_Vx__byte", mask := 0xF000, value := 0x3000 },
  { mnemonic := "SNE_Vx__byte", mask := 0xF000, value := 0x4000 },
  { mnemonic := "SE_Vx__Vy", mask := 0xF00F, value := 0x5000 },
  { mnemonic := "LD_Vx__byte", mask := 0xF000, value := 0x6000 },
  { mnemonic := "ADD_Vx__byte", mask := 0xF000, value := 0x7000 } ]

/-- Rows 8XY0 to 9XY0 of R73. -/
def opcodeRowsAlu : List OpcodeRow := [
  { mnemonic := "LD_Vx__Vy", mask := 0xF00F, value := 0x8000 },
  { mnemonic := "OR_Vx__Vy", mask := 0xF00F, value := 0x8001 },
  { mnemonic := "AND_Vx__Vy", mask := 0xF00F, value := 0x8002 },
  { mnemonic := "XOR_Vx__Vy", mask := 0xF00F, value := 0x8003 },
  { mnemonic := "ADD_Vx__Vy", mask := 0xF00F, value := 0x8004 },
  { mnemonic := "SUB_Vx__Vy", mask := 0xF00F, value := 0x8005 },
  { mnemonic := "SHR_Vx__Vy", mask := 0xF00F, value := 0x8006 },
  { mnemonic := "SUBN_Vx__Vy", mask := 0xF00F, value := 0x8007 },
  { mnemonic := "SHL_Vx__Vy", mask := 0xF00F, value := 0x800E },
  { mnemonic := "SNE_Vx__Vy", mask := 0xF00F, value := 0x9000 } ]

/-- Rows ANNN to EXA1 of R73. -/
def opcodeRowsMid : List OpcodeRow := [
  { mnemonic := "LD_I__addr", mask := 0xF000, value := 0xA000 },
  { mnemonic := "JP_V0__addr", mask := 0xF000, value := 0xB000 },
  { mnemonic := "RND_Vx__byte", mask := 0xF000, value := 0xC000 },
  { mnemonic := "DRW_Vx__Vy__nibble", mask := 0xF000, value := 0xD000 },
  { mnemonic := "SKP_Vx", mask := 0xF0FF, value := 0xE09E },
  { mnemonic := "SKNP_Vx", mask := 0xF0FF, value := 0xE0A1 } ]

/-- Rows FX07 to FX65 of R73. -/
def opcodeRowsHigh : List OpcodeRow := [
  { mnemonic := "LD_Vx__DT", mask := 0xF0FF, value := 0xF007 },
  { mnemonic := "LD_Vx__K", mask := 0xF0FF, value := 0xF00A },
  { mnemonic := "LD_DT__Vx", mask := 0xF0FF, value := 0xF015 },
  { mnemonic := "LD_ST__Vx", mask := 0xF0FF, value := 0xF018 },
  { mnemonic := "ADD_I__Vx", mask := 0xF0FF, value := 0xF01E },
  { mnemonic := "LD_F__Vx", mask := 0xF0FF, value := 0xF029 },
  { mnemonic := "LD_B__Vx", mask := 0xF0FF, value := 0xF033 },
  { mnemonic := "LD__I___Vx", mask := 0xF0FF, value := 0xF055 },
  { mnemonic := "LD_Vx___I", mask := 0xF0FF, value := 0xF065 } ]

/-- The opcode map of R73 in its machine form, row by row. -/
def opcodeTable : List OpcodeRow := opcodeRowsLow ++ opcodeRowsAlu ++ opcodeRowsMid ++ opcodeRowsHigh

/-- `op AND mask == match` (R73). -/
def OpcodeRow.matches (row : OpcodeRow) (op : Word) : Bool := op &&& row.mask == row.value

end Sys2Proof
end

