-- ==== Sys2Proof/Machine/Display.lean ====
section
/-! DEFINITION. The 64×32 framebuffer of 10_state.md R32: an array of 32 rows of 64 booleans, `FB[y][x]`. -/

namespace Sys2Proof.Machine

/-- FB: row y, then column x; true is a set pixel (R32). -/
abbrev FrameBuffer := Vector (Vector Bool Config.screenW) Config.screenH

/-- Every pixel 0: the reset value (R32) and what 00E0 leaves (R160). -/
def FrameBuffer.blank : FrameBuffer := Vector.replicate Config.screenH (Vector.replicate Config.screenW false)

/-- `FB[y][x]`; a position off the screen has no pixel and reads false. -/
def FrameBuffer.pixel (fb : FrameBuffer) (x y : Nat) : Bool :=
  if h : x < Config.screenW ∧ y < Config.screenH then (fb[y]'h.2)[x]'h.1 else false

/-- `FB[y][x] <- FB[y][x] XOR 1` for a position on the screen; off the screen nothing changes (R163). -/
def FrameBuffer.toggle (fb : FrameBuffer) (x y : Nat) : FrameBuffer :=
  if h : x < Config.screenW ∧ y < Config.screenH then
    fb.set y ((fb[y]'h.2).set x (!(fb[y]'h.2)[x]'h.1) h.1) h.2
  else fb

end Sys2Proof.Machine
end

