-- ==== Sys2Proof/Machine/Memory.lean ====
section
/-! DEFINITION. The 4096-byte memory (20_memory.md R50, R54, R55) as a canonical list of (address, byte) pairs: addresses
strictly rising and below MEM_SIZE, and no entry equal to what an unlisted address reads as. An unlisted address reads as
the spec's reset contents: the glyph table at FONT_BASE, 0x00 elsewhere (entry 4). -/

namespace Sys2Proof.Machine

/-- FONT_BASE (00_scope.md R6, R54; the spec's decision D12). -/
def fontBase : Nat := 0x050

/-- Glyphs 0 to 7 of R55, five rows each. -/
def fontLow : List Byte :=
  [0xF0, 0x90, 0x90, 0x90, 0xF0] ++ [0x20, 0x60, 0x20, 0x20, 0x70] ++
  [0xF0, 0x10, 0xF0, 0x80, 0xF0] ++ [0xF0, 0x10, 0xF0, 0x10, 0xF0] ++
  [0x90, 0x90, 0xF0, 0x10, 0x10] ++ [0xF0, 0x80, 0xF0, 0x10, 0xF0] ++
  [0xF0, 0x80, 0xF0, 0x90, 0xF0] ++ [0xF0, 0x10, 0x20, 0x40, 0x40]

/-- Glyphs 8 to F of R55. -/
def fontHigh : List Byte :=
  [0xF0, 0x90, 0xF0, 0x90, 0xF0] ++ [0xF0, 0x90, 0xF0, 0x10, 0xF0] ++
  [0xF0, 0x90, 0xF0, 0x90, 0x90] ++ [0xE0, 0x90, 0xE0, 0x90, 0xE0] ++
  [0xF0, 0x80, 0x80, 0x80, 0xF0] ++ [0xE0, 0x90, 0x90, 0x90, 0xE0] ++
  [0xF0, 0x80, 0xF0, 0x80, 0xF0] ++ [0xF0, 0x80, 0xF0, 0x80, 0x80]

/-- FONT_TABLE: 16 glyphs of 5 bytes, glyph d at offset 5 × d (R55). -/
def fontTable : List Byte := fontLow ++ fontHigh

/-- What an address holds at reset with no image, and so what an unlisted address reads as (R50, R230). -/
def resetByte (a : Nat) : Byte :=
  if fontBase ≤ a then fontTable.getD (a - fontBase) 0 else 0

/-- Memory: the bytes that differ from `resetByte`, by address. -/
abbrev Memory := List Host.Cell

/-- The byte at an address below MEM_SIZE. -/
def Memory.read : Memory → Nat → Byte
  | [], a => resetByte a
  | (k, b) :: m, a => if k = a then b else Memory.read m a

/-- The list without an entry for a. -/
def Memory.remove (m : Memory) (a : Nat) : Memory := m.filter (fun c => c.1 != a)

/-- The list with the entry (a, b) before the first greater address. -/
def Memory.place (a : Nat) (b : Byte) : Memory → Memory
  | [] => [(a, b)]
  | (k, c) :: m => if a < k then (a, b) :: (k, c) :: m else (k, c) :: Memory.place a b m

/-- Store one byte. Storing what an unlisted address reads as leaves no entry, so the canonical form is kept. -/
def Memory.write (m : Memory) (a : Nat) (b : Byte) : Memory :=
  if b = resetByte a then m.remove a else Memory.place a b (m.remove a)

/-- The canonical form from address lo upward. -/
def Memory.wfFrom : Nat → Memory → Bool
  | _, [] => true
  | lo, (k, b) :: m => decide (lo ≤ k) && decide (k < Config.memSize) && (b != resetByte k) && Memory.wfFrom (k + 1) m

/-- The canonical form: addresses strictly rising and below MEM_SIZE, no entry equal to `resetByte`. -/
def Memory.wf (m : Memory) : Bool := Memory.wfFrom 0 m

end Sys2Proof.Machine
end

