-- ==== Sys2Proof/Machine/State.lean ====
section
/-! DEFINITION. The state of the block (10_state.md R20), its value after reset (70_reset_and_hazards.md R230, R231), and
the reasons a step can stop. State is plain data. -/

namespace Sys2Proof.Machine

/-- RUN (R34). -/
inductive RunState where
  | running
  | paused
  | halted
  deriving DecidableEq, Repr

/-- FAULT: the fatal error that halted the block (R35). -/
inductive FaultCode where
  /-- None, code 0. -/
  | none
  /-- StackOverflow, code 1 (R202). -/
  | stackOverflow
  /-- StackUnderflow, code 2 (R203). -/
  | stackUnderflow
  deriving DecidableEq, Repr

/-- The code FAULT holds (R35, R200). -/
def FaultCode.code : FaultCode → Nat
  | .none => 0
  | .stackOverflow => 1
  | .stackUnderflow => 2

/-- One UnknownOpcode event: the word and its fetch address (R205). -/
structure UnknownOpcode where
  op : Word
  addr : Word
  deriving DecidableEq, Repr

/-- The load result of a reset (R44, R233, R234). -/
inductive LoadResult where
  | ok
  | programTooLarge
  | programNotFound
  deriving DecidableEq, Repr

/-- The state record of R20. `draws` and `reports` are the model's own fields (entries 2 and 1). -/
structure State where
  /-- V0 to VF (R21). -/
  v : Vector Byte Config.nregs
  /-- The index register I (R24). -/
  i : Word
  /-- The program counter PC (R25). -/
  pc : Word
  /-- The stack pointer SP, 0 to STACK_DEPTH (R28). -/
  sp : Fin (Config.stackDepth + 1)
  /-- The call stack S (R28); an entry at SP or above keeps what it last held (R29). -/
  stack : Vector Word Config.stackDepth
  /-- The delay timer DT (R30). -/
  dt : Byte
  /-- The sound timer ST (R31). -/
  st : Byte
  /-- MEM (R50). -/
  mem : Memory
  /-- FB (R32). -/
  fb : FrameBuffer
  /-- KEY, an input the host owns (R33). -/
  key : Vector Bool Config.nkeys
  /-- RUN (R34). -/
  run : RunState
  /-- FAULT (R35). -/
  fault : FaultCode
  /-- How many random bytes have been drawn; it selects the next free value (R13; the model's own). -/
  draws : Nat
  /-- The UnknownOpcode events so far, oldest first (R205; an output history, the model's own). -/
  reports : List UnknownOpcode
  deriving DecidableEq, Repr

/-- A fault stops the machine. The block has none: a fatal stack error is the next state of R201, every address wraps
(R53) and every word has a behaviour (R82, R205), so no rule leaves a step without a next state and this type has no
constructor. Nobody raises one; safe. -/
inductive Fault where
  deriving DecidableEq, Repr

/-- A refusal: the model has no meaning for the instruction. -/
inductive Refusal where
  /-- Raised by an arm of `exec` whose instruction has no meaning in the model yet. No arm raises it: all 34 instructions
  have their meaning. Safe. -/
  | notModelled (mnemonic : String)
  deriving DecidableEq, Repr

/-- What a step or an instruction answers. -/
abbrev Result := Host.Outcome State Fault Refusal

/-- The machine right after `reset` with an empty image (R230, R231, R233): every field at the value the spec states; the
two fields of the model's own at 0 and []. -/
def State.reset : State where
  v := Vector.replicate Config.nregs 0x00
  i := 0x0000
  pc := 0x0200
  sp := 0
  stack := Vector.replicate Config.stackDepth 0x0000
  dt := 0x00
  st := 0x00
  mem := []
  fb := FrameBuffer.blank
  key := Vector.replicate Config.nkeys false
  run := .running
  fault := .none
  draws := 0
  reports := []

end Sys2Proof.Machine
end

