-- ==== Sys2Proof/Machine/Ops.lean ====
section
/-! DEFINITION. The named operations over registers, memory, stack and status that every meaning is written in: the
primitives of 00_scope.md R10 to R13, `ea` (20_memory.md R53), the fetch (R52), the skip (40_pc_control.md R101), push and
pop (10_state.md R28), the fatal entry (60_exceptions.md R201) and the UnknownOpcode report (R205). -/

namespace Sys2Proof.Machine

/-- Read `V[r]` (R10). -/
def State.getV (s : State) (r : Reg) : Byte := s.v[r.val]

/-- `V[r] <- b` (R10). No register is hardwired (R21). -/
def State.setV (s : State) (r : Reg) (b : Byte) : State := { s with v := s.v.set r.val b r.isLt }

/-- `I <- w` (R10, R24). -/
def State.setI (s : State) (w : Word) : State := { s with i := w }

/-- `PC <- w` (R10, R25). -/
def State.setPc (s : State) (w : Word) : State := { s with pc := w }

/-- `DT <- b` (R30). -/
def State.setDt (s : State) (b : Byte) : State := { s with dt := b }

/-- `ST <- b` (R31). -/
def State.setSt (s : State) (b : Byte) : State := { s with st := b }

/-- Replace the framebuffer (R32). -/
def State.setFb (s : State) (fb : FrameBuffer) : State := { s with fb := fb }

/-- `RUN <- r` (R34). -/
def State.setRun (s : State) (r : RunState) : State := { s with run := r }

/-- Effective address: `ea(a) = a mod 4096` (R53, the value `wrap` of MEM_ADDR_POLICY). -/
def ea (a : Nat) : Nat := a % Config.memSize

/-- `MemRead(a, 1)` (R11, R53). -/
def State.memRead (s : State) (a : Nat) : Byte := s.mem.read (ea a)

/-- `MemWrite(a, 1, b)` (R11, R53). -/
def State.memWrite (s : State) (a : Nat) (b : Byte) : State := { s with mem := s.mem.write (ea a) b }

/-- Store bytes at a, a + 1, a + 2, …, in increasing order of offset (R56). -/
def State.storeBytes (a : Nat) : List Byte → State → State
  | [], s => s
  | b :: bs, s => State.storeBytes (a + 1) bs (s.memWrite a b)

/-- `V[r] <- MemRead(base + r, 1)` for each register of the list, in its order (R145). -/
def State.loadRegs (base : Nat) : List Reg → State → State
  | [], s => s
  | r :: rs, s => State.loadRegs base rs (s.setV r (s.memRead (base + r.val)))

/-- Whether this step executes an instruction: RUN = Running (R34, R100). -/
def State.executes (s : State) : Bool := s.run == .running

/-- The instruction word: the bytes at PC and PC + 1, big-endian (R52). -/
def State.fetchWord (s : State) : Word := wordOfBytes (s.memRead s.pc.toNat) (s.memRead (s.pc.toNat + 1))

/-- The fetch advance: `PC <- (PC + 2) mod 2^16` (R100). -/
def State.advancePc (s : State) : State := s.setPc (s.pc + 2)

/-- The skip primitive: `PC <- (PC + 2) mod 2^16` on top of the fetch advance (R101). -/
def State.skip (s : State) : State := s.setPc (s.pc + 2)

/-- `if c: skip`. -/
def State.skipIf (c : Bool) (s : State) : State := if c then s.skip else s

/-- FX0A's rewind: `PC <- (PC − 2) mod 2^16` (R183). -/
def State.rewindPc (s : State) : State := s.setPc (s.pc - 2)

/-- Push a return address: `S[SP] <- w`, then SP + 1. There is no push on a full stack, SP = STACK_DEPTH (R28). -/
def State.push (s : State) (w : Word) : Option State :=
  if h : s.sp.val < Config.stackDepth then
    some { s with stack := s.stack.set s.sp.val w h, sp := ⟨s.sp.val + 1, Nat.succ_lt_succ h⟩ }
  else none

/-- Pop a return address: SP − 1, then read `S[SP]`. There is no pop on an empty stack, SP = 0 (R28). -/
def State.pop (s : State) : Option (Word × State) :=
  if h : 0 < s.sp.val then
    some (s.stack[s.sp.val - 1]'(by have := s.sp.isLt; omega),
      { s with sp := ⟨s.sp.val - 1, Nat.lt_of_le_of_lt (Nat.sub_le _ _) s.sp.isLt⟩ })
  else none

/-- Fatal entry, `raise Fatal(c)`: RUN becomes Halted and FAULT takes the cause if it holds None. Nothing else is saved:
there is no saved PC, vector or handler (R201), and no return from it but the host's reset (R209). -/
def State.raiseFatal (c : FaultCode) (s : State) : State :=
  { s with run := .halted, fault := if s.fault = .none then c else s.fault }

/-- `report UnknownOpcode(op, addr)`: the event joins the history, no other state changes (R12, R205). -/
def State.reportUnknown (op addr : Word) (s : State) : State := { s with reports := s.reports ++ [⟨op, addr⟩] }

/-- The byte the next `draw_rand8()` answers: a free value (R13, entry 2). -/
def State.drawByte (s : State) : Byte := Config.freeDraw s.draws

/-- One draw is consumed (R13). -/
def State.consumeDraw (s : State) : State := { s with draws := s.draws + 1 }

/-- `KEY[k]`, with true meaning pressed (R10, R33). -/
def State.keyDown (s : State) (k : Fin Config.nkeys) : Bool := s.key[k.val]

/-- The sixteen numbers 0x0 to 0xF in increasing order, of registers and of keys. -/
def sixteen : List (Fin 16) := [0, 1, 2, 3, 4, 5, 6, 7, 8, 9, 10, 11, 12, 13, 14, 15]

/-- The least k with `KEY[k] == 1`, if any key is pressed (R183; the spec's decision D7). -/
def State.leastKey (s : State) : Option (Fin 16) := sixteen.find? s.keyDown

end Sys2Proof.Machine
end

