-- ==== Sys2Proof/Machine/Operands.lean ====
section
/-! DEFINITION. Operand forms (30_encoding.md R72): addresses formed from NNN, I and a register, the register range V0 to
VX, the key index, the decimal digits of a byte and the sprite's start position. Sums are exact, then narrowed (R9). -/

namespace Sys2Proof.Machine

/-- `zext_16(NNN)` (R72). -/
def zext16 (nnn : Addr12) : Word := nnn.setWidth 16

/-- BNNN's target `zext_16(NNN) + V[0]`, at most 0x10FE (R105). -/
def indexedTarget (nnn : Addr12) (v0 : Byte) : Word := BitVec.ofNat 16 (nnn.toNat + v0.toNat)

/-- `(I + VX) mod 2^16` (R141). -/
def indexPlus (i : Word) (vx : Byte) : Word := BitVec.ofNat 16 (i.toNat + vx.toNat)

/-- `FONT_BASE + VX × 5`; VX is not masked to its low nibble (R142). -/
def glyphAddress (vx : Byte) : Word := BitVec.ofNat 16 (fontBase + vx.toNat * 5)

/-- `key_index(v) = v mod 16` (R187, the value `mask` of KEY_INDEX_POLICY). -/
def keyIndex (vx : Byte) : Fin 16 := ⟨vx.toNat % 16, Nat.mod_lt _ (by decide)⟩

/-- A register number or key number as a byte, 0x00 to 0x0F (R183). -/
def byteOfKey (k : Fin 16) : Byte := BitVec.ofNat 8 k.val

/-- The registers V0 to VX, in increasing order (R72, R144, R145). -/
def regsUpTo (x : Reg) : List Reg := sixteen.filter (fun r => decide (r.val ≤ x.val))

/-- The bytes of V0 to VX (R144). -/
def State.regBytes (s : State) (x : Reg) : List Byte := (regsUpTo x).map s.getV

/-- Hundreds, tens and units digit of VX (R143). -/
def bcdDigits (vx : Byte) : List Byte :=
  [BitVec.ofNat 8 (vx.toNat / 100), BitVec.ofNat 8 (vx.toNat / 10 % 10), BitVec.ofNat 8 (vx.toNat % 10)]

/-- The effective addresses of n consecutive bytes from a (R53, R56). -/
def blockAddrs (a n : Nat) : List Nat := (List.range n).map (fun k => ea (a + k))

/-- `x0 = VX mod 64` (R161). -/
def spriteColumn (vx : Byte) : Nat := vx.toNat % Config.screenW

/-- `y0 = VY mod 32` (R161). -/
def spriteRow (vy : Byte) : Nat := vy.toNat % Config.screenH

end Sys2Proof.Machine
end

