-- ==== Sys2Proof/Machine/Flags.lean ====
section
/-! DEFINITION. Every value VF takes as a flag (41_alu.md R120, R134; 43_sprite_xor.md R164), and the 8-bit results that go
with them: computed exactly on integers, then reduced modulo 256 (R9, R120). -/

namespace Sys2Proof.Machine

/-- A flag as the byte VF holds: 0 or 1. -/
def flagByte (f : Bool) : Byte := if f then 1 else 0

/-- 8XY4: 1 exactly when the exact sum exceeds 255 (R128). -/
def carryFlag (a b : Byte) : Bool := decide (a.toNat + b.toNat > 255)

/-- 8XY5 and 8XY7: 1 exactly when the minuend is strictly greater than the subtrahend (R129, R131; 90_conflicts.md C7). -/
def greaterFlag (a b : Byte) : Bool := decide (a.toNat > b.toNat)

/-- 8XY6: the low bit before the shift (R130). -/
def lowBit (a : Byte) : Bool := a.getLsbD 0

/-- 8XYE: the high bit before the shift (R132). -/
def highBit (a : Byte) : Bool := a.getLsbD 7

/-- `(a + b) mod 256` (R123, R128). -/
def sum8 (a b : Byte) : Byte := BitVec.ofNat 8 (a.toNat + b.toNat)

/-- `(a − b) mod 256` (R129, R131). -/
def diff8 (a b : Byte) : Byte := BitVec.ofInt 8 ((a.toNat : Int) - b.toNat)

/-- `a >> 1` (R130). -/
def shiftRight1 (a : Byte) : Byte := BitVec.ofNat 8 (a.toNat / 2)

/-- `(a << 1) mod 256` (R132). -/
def shiftLeft1 (a : Byte) : Byte := BitVec.ofNat 8 (a.toNat * 2)

/-- Write VF with the flag, then V[x] with the result: when x = F the result is left in VF (R121). -/
def State.setFlagThenV (s : State) (flag : Bool) (x : Reg) (result : Byte) : State :=
  (s.setV VF (flagByte flag)).setV x result

end Sys2Proof.Machine
end

