-- ==== Sys2Proof/Machine/Alu.lean ====
section
/-! DEFINITION. The ALU of 41_alu.md: immediate forms, logic, arithmetic and shifts with VF, and the random byte. Operands
are read before any write (R121). -/

namespace Sys2Proof.Machine

/-- `6XNN` LD Vx, byte (R122). -/
def execLdVxByte (x : Reg) (nn : Byte) (s : State) : Result := .next (s.setV x nn)

/-- `7XNN` ADD Vx, byte (R123): no flag. -/
def execAddVxByte (x : Reg) (nn : Byte) (s : State) : Result := .next (s.setV x (sum8 (s.getV x) nn))

/-- `8XY0` LD Vx, Vy (R124). -/
def execLdVxVy (x y : Reg) (s : State) : Result := .next (s.setV x (s.getV y))

/-- `8XY1` OR Vx, Vy (R125): VF is not reset. -/
def execOrVxVy (x y : Reg) (s : State) : Result := .next (s.setV x (s.getV x ||| s.getV y))

/-- `8XY2` AND Vx, Vy (R126): VF is not reset. -/
def execAndVxVy (x y : Reg) (s : State) : Result := .next (s.setV x (s.getV x &&& s.getV y))

/-- `8XY3` XOR Vx, Vy (R127): VF is not reset. -/
def execXorVxVy (x y : Reg) (s : State) : Result := .next (s.setV x (s.getV x ^^^ s.getV y))

/-- `8XY4` ADD Vx, Vy (R128): VF is the carry. -/
def execAddVxVy (x y : Reg) (s : State) : Result :=
  let vx := s.getV x
  let vy := s.getV y
  .next (s.setFlagThenV (carryFlag vx vy) x (sum8 vx vy))

/-- `8XY5` SUB Vx, Vy (R129): VF is 1 exactly when VX > VY. -/
def execSubVxVy (x y : Reg) (s : State) : Result :=
  let vx := s.getV x
  let vy := s.getV y
  .next (s.setFlagThenV (greaterFlag vx vy) x (diff8 vx vy))

/-- `8XY6` SHR Vx (R130): Y is encoded and not read. -/
def execShrVxVy (x _y : Reg) (s : State) : Result :=
  let vx := s.getV x
  .next (s.setFlagThenV (lowBit vx) x (shiftRight1 vx))

/-- `8XY7` SUBN Vx, Vy (R131): VF is 1 exactly when VY > VX. -/
def execSubnVxVy (x y : Reg) (s : State) : Result :=
  let vx := s.getV x
  let vy := s.getV y
  .next (s.setFlagThenV (greaterFlag vy vx) x (diff8 vy vx))

/-- `8XYE` SHL Vx (R132): Y is encoded and not read. -/
def execShlVxVy (x _y : Reg) (s : State) : Result :=
  let vx := s.getV x
  .next (s.setFlagThenV (highBit vx) x (shiftLeft1 vx))

/-- `CXNN` RND Vx, byte (R133): one fresh draw, masked by NN. -/
def execRndVxByte (x : Reg) (nn : Byte) (s : State) : Result := .next (s.consumeDraw.setV x (s.drawByte &&& nn))

end Sys2Proof.Machine
end

