-- ==== Sys2Proof/Machine/Control.lean ====
section
/-! DEFINITION. The program-counter control path of 40_pc_control.md: RET, JP, CALL, JP V0 and the register skips. In every
meaning the state's PC is already the address of the instruction plus 2 (R100). -/

namespace Sys2Proof.Machine

/-- `00EE` RET (R102): pop into PC; StackUnderflow on an empty stack. -/
def execRet (s : State) : Result :=
  match s.pop with
  | some (target, t) => .next (t.setPc target)
  | none => .next (s.raiseFatal .stackUnderflow)

/-- `1NNN` JP addr (R103). -/
def execJpAddr (nnn : Addr12) (s : State) : Result := .next (s.setPc (zext16 nnn))

/-- `2NNN` CALL addr (R104): push the return address, jump; StackOverflow on a full stack. -/
def execCallAddr (nnn : Addr12) (s : State) : Result :=
  match s.push s.pc with
  | some t => .next (t.setPc (zext16 nnn))
  | none => .next (s.raiseFatal .stackOverflow)

/-- `BNNN` JP V0, addr (R105). -/
def execJpV0Addr (nnn : Addr12) (s : State) : Result := .next (s.setPc (indexedTarget nnn (s.getV 0)))

/-- `3XNN` SE Vx, byte (R106). -/
def execSeVxByte (x : Reg) (nn : Byte) (s : State) : Result := .next (s.skipIf (s.getV x == nn))

/-- `4XNN` SNE Vx, byte (R107). -/
def execSneVxByte (x : Reg) (nn : Byte) (s : State) : Result := .next (s.skipIf (s.getV x != nn))

/-- `5XY0` SE Vx, Vy (R108). -/
def execSeVxVy (x y : Reg) (s : State) : Result := .next (s.skipIf (s.getV x == s.getV y))

/-- `9XY0` SNE Vx, Vy (R109). -/
def execSneVxVy (x y : Reg) (s : State) : Result := .next (s.skipIf (s.getV x != s.getV y))

end Sys2Proof.Machine
end

