-- ==== Sys2Proof/Machine/Index.lean ====
section
/-! DEFINITION. The index register and memory transfers of 42_index_memory.md. FX33, FX55 and FX65 leave I as it was. -/

namespace Sys2Proof.Machine

/-- `ANNN` LD I, addr (R140). -/
def execLdIAddr (nnn : Addr12) (s : State) : Result := .next (s.setI (zext16 nnn))

/-- `FX1E` ADD I, Vx (R141): no flag, no masking to 12 bits. -/
def execAddIVx (x : Reg) (s : State) : Result := .next (s.setI (indexPlus s.i (s.getV x)))

/-- `FX29` LD F, Vx (R142). -/
def execLdFVx (x : Reg) (s : State) : Result := .next (s.setI (glyphAddress (s.getV x)))

/-- `FX33` LD B, Vx (R143): the three decimal digits at I, I + 1, I + 2. -/
def execLdBVx (x : Reg) (s : State) : Result := .next (s.storeBytes s.i.toNat (bcdDigits (s.getV x)))

/-- `FX55` LD [I], Vx (R144): V0 to VX at I upward. -/
def execLdMemIVx (x : Reg) (s : State) : Result := .next (s.storeBytes s.i.toNat (s.regBytes x))

/-- `FX65` LD Vx, [I] (R145): V0 to VX from I upward. -/
def execLdVxMemI (x : Reg) (s : State) : Result := .next (s.loadRegs s.i.toNat (regsUpTo x))

end Sys2Proof.Machine
end

