-- ==== Sys2Proof/Machine/KeysTimers.lean ====
section
/-! DEFINITION. The key tests, the key wait and the timer transfers of 44_timers_keys.md. -/

namespace Sys2Proof.Machine

/-- `EX9E` SKP Vx (R180). -/
def execSkpVx (x : Reg) (s : State) : Result := .next (s.skipIf (s.keyDown (keyIndex (s.getV x))))

/-- `EXA1` SKNP Vx (R181). -/
def execSknpVx (x : Reg) (s : State) : Result := .next (s.skipIf (!s.keyDown (keyIndex (s.getV x))))

/-- `FX07` LD Vx, DT (R182). -/
def execLdVxDT (x : Reg) (s : State) : Result := .next (s.setV x s.dt)

/-- `FX0A` LD Vx, K (R183): with no key pressed PC goes back to this word and nothing else changes; else VX takes the
least pressed key. -/
def execLdVxK (x : Reg) (s : State) : Result :=
  match s.leastKey with
  | some k => .next (s.setV x (byteOfKey k))
  | none => .next s.rewindPc

/-- `FX15` LD DT, Vx (R184). -/
def execLdDTVx (x : Reg) (s : State) : Result := .next (s.setDt (s.getV x))

/-- `FX18` LD ST, Vx (R185). -/
def execLdSTVx (x : Reg) (s : State) : Result := .next (s.setSt (s.getV x))

end Sys2Proof.Machine
end

