-- ==== Sys2Proof/Machine/Sprite.lean ====
section
/-! DEFINITION. The framebuffer clear and the sprite-collision XOR engine of 43_sprite_xor.md, in the loop form of R162. -/

namespace Sys2Proof.Machine

/-- What the draw loop carries: the framebuffer and the collision latch (R162, R164). -/
structure Canvas where
  fb : FrameBuffer
  hit : Bool
  deriving DecidableEq, Repr

/-- One set sprite bit at (px, py): off the screen it is dropped (R163); on it, the latch is set if the pixel was set
(R164), and the pixel is XORed with 1. -/
def Canvas.plot (px py : Nat) (c : Canvas) : Canvas :=
  if px < Config.screenW ∧ py < Config.screenH then
    { fb := c.fb.toggle px py, hit := c.hit || c.fb.pixel px py }
  else c

/-- One sprite row: bit 7 − col of the byte at column x0 + col, most significant bit first (R162). -/
def Canvas.plotRow (x0 py : Nat) (b : Byte) (c : Canvas) : Canvas :=
  (List.range 8).foldl (fun d col => if b.getLsbD (7 - col) then d.plot (x0 + col) py else d) c

/-- The rows of a sprite from (x0, y0) downward, one byte a row (R162). -/
def Canvas.plotRows (x0 : Nat) : Nat → List Byte → Canvas → Canvas
  | _, [], c => c
  | py, b :: bs, c => Canvas.plotRows x0 (py + 1) bs (c.plotRow x0 py b)

/-- The N bytes of a sprite at I (R162). -/
def State.spriteBytes (s : State) (n : Nat) : List Byte := (List.range n).map (fun row => s.memRead (s.i.toNat + row))

/-- `00E0` CLS (R160). -/
def execCls (s : State) : Result := .next (s.setFb FrameBuffer.blank)

/-- `DXYN` DRW Vx, Vy, nibble (R162): coordinates latched first, VF 0 unless a set pixel was turned off. -/
def execDrwVxVyNibble (x y : Reg) (n : Nibble) (s : State) : Result :=
  let x0 := spriteColumn (s.getV x)
  let y0 := spriteRow (s.getV y)
  let c := Canvas.plotRows x0 y0 (s.spriteBytes n.val) { fb := s.fb, hit := false }
  .next ((s.setFb c.fb).setV VF (flagByte c.hit))

end Sys2Proof.Machine
end

