-- ==== Sys2Proof/Machine/Step.lean ====
section
/-! DEFINITION. One `step` of the block (40_pc_control.md R100), and the placing of an instruction where it fetches. -/

namespace Sys2Proof.Machine

/-- The step cycle (R100): nothing unless RUN = Running; else fetch, advance PC, decode and execute. An unrecognised word
is reported with its fetch address and ignored (R205). -/
def step (s : State) : Host.Outcome State Fault Refusal :=
  if s.executes then
    match decode s.fetchWord with
    | .ok i => exec i s.advancePc
    | .error _ => .next (s.advancePc.reportUnknown s.fetchWord s.pc)
  else .next s

/-- The state with the word w (its bits from nbits up being 0) stored at PC and PC + 1, high byte first, and RUN = Running,
which a fetch needs (R100): the next step fetches and runs exactly that word (entry 3). -/
def State.withFetchWord (s : State) (nbits w : Nat) : State :=
  let op : Word := BitVec.ofNat 16 (w % 2 ^ nbits)
  (s.storeBytes s.pc.toNat [highByte op, lowByte op]).setRun .running

end Sys2Proof.Machine
end

