-- ==== Sys2Proof/Machine/HostActions.lean ====
section
/-! DEFINITION. What the host does between steps (10_state.md R44, R45): the load (70_reset_and_hazards.md R230, R233,
R234), the tick (44_timers_keys.md R186), the key levels (R188), the pause toggle and the quit (10_state.md R34); what it
can read; and runs in which steps and host actions follow one another in any order. -/

namespace Sys2Proof.Machine

/-- The reset state as a new life of the machine that was in state s: every field of R230 at its reset value, the event
history empty; only the draw counter goes on, so that no draw after a reset is tied to one before it (entry 7). -/
def State.renewed (s : State) : State := { State.reset with draws := s.draws }

/-- A failed load: the reset state with no image byte copied and RUN = Halted (R233). -/
def State.failedLoad (s : State) : State := s.renewed.setRun .halted

/-- `reset(image)` (R230, R233): an image of at most PROG_MAX bytes is copied to 0x200 upward. -/
def State.load (image : List Byte) (s : State) : State × LoadResult :=
  if image.length ≤ Config.progMax then (s.renewed.storeBytes Config.progBase image, .ok)
  else (s.failedLoad, .programTooLarge)

/-- A load whose image the host cannot read (R234): the failure case of R233. -/
def State.loadUnreadable (s : State) : State × LoadResult := (s.failedLoad, .programNotFound)

/-- One less, and never below zero (R186). -/
def countDown (t : Byte) : Byte := if t.toNat > 0 then t - 1 else t

/-- `tick` (R186), in any run state. -/
def State.tick (s : State) : State := { s with dt := countDown s.dt, st := countDown s.st }

/-- The host sets the level of one key (R33, R188). -/
def State.setKey (k : Fin Config.nkeys) (down : Bool) (s : State) : State := { s with key := s.key.set k.val down k.isLt }

/-- The pause toggle swaps Running and Paused and does nothing in Halted (R34). -/
def RunState.toggled : RunState → RunState
  | .running => .paused
  | .paused => .running
  | .halted => .halted

/-- `pause_toggle` (R34). -/
def State.pauseToggle (s : State) : State := s.setRun s.run.toggled

/-- `quit`: any state to Halted (R34). -/
def State.quit (s : State) : State := s.setRun .halted

/-- A host action (R44). -/
inductive HostAction where
  /-- `reset(image)`. -/
  | reset (image : List Byte)
  /-- A reset whose image file cannot be read (R234). -/
  | resetUnreadable
  | tick
  | setKey (k : Fin Config.nkeys) (down : Bool)
  | pauseToggle
  | quit
  deriving DecidableEq, Repr

/-- The effect of a host action, atomic and between steps (R45). -/
def HostAction.apply : HostAction → State → State
  | .reset image, s => (s.load image).1
  | .resetUnreadable, s => s.loadUnreadable.1
  | .tick, s => s.tick
  | .setKey k down, s => s.setKey k down
  | .pauseToggle, s => s.pauseToggle
  | .quit, s => s.quit

/-- The load result a host action answers, if it is a load (R44, R233, R234). -/
def HostAction.loadResult : HostAction → State → Option LoadResult
  | .reset image, s => some (s.load image).2
  | .resetUnreadable, s => some s.loadUnreadable.2
  | _, _ => none

/-- Whether a host of this hardware takes the action in this state: every action at any time, but a tick outside Running
only if HOST_TICKS_WHEN_NOT_RUNNING (R186, D26). The block itself applies every action it receives. -/
def HostAction.offered : HostAction → State → Bool
  | .tick, s => s.executes || Config.hostTicksWhenNotRunning
  | _, _ => true

/-- What the total order of R60 is made of: steps and host actions. -/
inductive Event where
  | step
  | act (a : HostAction)
  deriving DecidableEq, Repr

/-- One event. -/
def Event.apply : Event → State → Result
  | .step, s => Machine.step s
  | .act a, s => .next (a.apply s)

/-- A run: events in the order the host chooses, from the left (R45, R60). It stops where a step does. -/
def runEvents : List Event → State → Result
  | [], s => .next s
  | e :: es, s =>
    match e.apply s with
    | .next t => runEvents es t
    | .fault f => .fault f
    | .refused r => .refused r

/-- What the host can read of the block (R44): FB, ST, RUN, FAULT and the UnknownOpcode events. The load result is the
answer of the load. -/
structure Outputs where
  fb : FrameBuffer
  st : Byte
  run : RunState
  fault : FaultCode
  reports : List UnknownOpcode
  deriving DecidableEq, Repr

/-- The outputs in a state. -/
def State.outputs (s : State) : Outputs :=
  { fb := s.fb, st := s.st, run := s.run, fault := s.fault, reports := s.reports }

end Sys2Proof.Machine
end

