-- ==== Sys2Proof/Safety.lean ====
section
/-! DEFINITION. The terms statements use: parts of the state and the two relations "agree on" and "agree off" them; who
reads and who writes which part (10_state.md R23); the next PC (40_pc_control.md R110); the positions of a sprite
(43_sprite_xor.md R165); the invariant of every run; stale stack entries (R29); reachable states. -/

namespace Sys2Proof.Machine

/-- A selection of parts of the state: registers by number, stack entries by index, memory by effective address, the rest
whole. -/
structure Parts where
  regs : List Reg := []
  i : Bool := false
  pc : Bool := false
  sp : Bool := false
  stack : List Nat := []
  dt : Bool := false
  st : Bool := false
  mem : List Nat := []
  fb : Bool := false
  key : Bool := false
  run : Bool := false
  fault : Bool := false
  draws : Bool := false
  reports : Bool := false
  deriving DecidableEq, Repr

/-- FRAME: t is s outside the parts p. Every register, stack entry and byte of memory not named, and every field not
named, is unchanged. -/
structure Frame (p : Parts) (s t : State) : Prop where
  regs : ∀ r, r ∉ p.regs → t.getV r = s.getV r
  i : p.i = false → t.i = s.i
  pc : p.pc = false → t.pc = s.pc
  sp : p.sp = false → t.sp = s.sp
  stack : ∀ k (h : k < Config.stackDepth), k ∉ p.stack → t.stack[k] = s.stack[k]
  dt : p.dt = false → t.dt = s.dt
  st : p.st = false → t.st = s.st
  mem : ∀ a, ea a ∉ p.mem → t.memRead a = s.memRead a
  fb : p.fb = false → t.fb = s.fb
  key : p.key = false → t.key = s.key
  run : p.run = false → t.run = s.run
  fault : p.fault = false → t.fault = s.fault
  draws : p.draws = false → t.draws = s.draws
  reports : p.reports = false → t.reports = s.reports

/-- s and s' agree on the parts p. -/
structure AgreeOn (p : Parts) (s s' : State) : Prop where
  regs : ∀ r ∈ p.regs, s'.getV r = s.getV r
  i : p.i = true → s'.i = s.i
  pc : p.pc = true → s'.pc = s.pc
  sp : p.sp = true → s'.sp = s.sp
  stack : ∀ k (h : k < Config.stackDepth), k ∈ p.stack → s'.stack[k] = s.stack[k]
  dt : p.dt = true → s'.dt = s.dt
  st : p.st = true → s'.st = s.st
  mem : ∀ a, ea a ∈ p.mem → s'.memRead a = s.memRead a
  fb : p.fb = true → s'.fb = s.fb
  key : p.key = true → s'.key = s.key
  run : p.run = true → s'.run = s.run
  fault : p.fault = true → s'.fault = s.fault
  draws : p.draws = true → s'.draws = s.draws
  reports : p.reports = true → s'.reports = s.reports

/-- What an instruction may write when it executes in s: the W columns of R23, and for 2NNN and 00EE on a full or an empty
stack what the fatal entry of R201 writes. The memory addresses are the ones its meaning stores to. -/
def writesOf (i : Instr) (s : State) : Parts :=
  match i with
  | .cls => { fb := true }
  | .ret => if s.sp.val = 0 then { run := true, fault := true } else { pc := true, sp := true }
  | .jpAddr _ => { pc := true }
  | .callAddr _ =>
    if s.sp.val = Config.stackDepth then { run := true, fault := true }
    else { pc := true, sp := true, stack := [s.sp.val] }
  | .seVxByte _ _ | .sneVxByte _ _ | .seVxVy _ _ | .sneVxVy _ _ => { pc := true }
  | .ldVxByte x _ | .addVxByte x _ | .ldVxVy x _ | .orVxVy x _ | .andVxVy x _ | .xorVxVy x _ => { regs := [x] }
  | .addVxVy x _ | .subVxVy x _ | .shrVxVy x _ | .subnVxVy x _ | .shlVxVy x _ => { regs := [VF, x] }
  | .ldIAddr _ => { i := true }
  | .jpV0Addr _ => { pc := true }
  | .rndVxByte x _ => { regs := [x], draws := true }
  | .drwVxVyNibble _ _ _ => { regs := [VF], fb := true }
  | .skpVx _ | .sknpVx _ => { pc := true }
  | .ldVxDT x => { regs := [x] }
  | .ldVxK x => if s.leastKey = none then { pc := true } else { regs := [x] }
  | .ldDTVx _ => { dt := true }
  | .ldSTVx _ => { st := true }
  | .addIVx _ | .ldFVx _ => { i := true }
  | .ldBVx _ => { mem := blockAddrs s.i.toNat 3 }
  | .ldMemIVx x => { mem := blockAddrs s.i.toNat (x.val + 1) }
  | .ldVxMemI x => { regs := regsUpTo x }

/-- What an instruction may read when it executes in s: the R columns of R23, PC where it is advanced or pushed, and FAULT
where the fatal entry of R201 looks at it. -/
def readsOf (i : Instr) (s : State) : Parts :=
  match i with
  | .cls => {}
  | .ret => { sp := true, stack := [s.sp.val - 1], fault := true }
  | .jpAddr _ => {}
  | .callAddr _ => { pc := true, sp := true, fault := true }
  | .seVxByte x _ | .sneVxByte x _ => { regs := [x], pc := true }
  | .seVxVy x y | .sneVxVy x y => { regs := [x, y], pc := true }
  | .ldVxByte _ _ => {}
  | .addVxByte x _ => { regs := [x] }
  | .ldVxVy _ y => { regs := [y] }
  | .orVxVy x y | .andVxVy x y | .xorVxVy x y => { regs := [x, y] }
  | .addVxVy x y | .subVxVy x y | .subnVxVy x y => { regs := [x, y] }
  | .shrVxVy x _ | .shlVxVy x _ => { regs := [x] }
  | .ldIAddr _ => {}
  | .jpV0Addr _ => { regs := [0] }
  | .rndVxByte _ _ => { draws := true }
  | .drwVxVyNibble x y n => { regs := [x, y], i := true, fb := true, mem := blockAddrs s.i.toNat n.val }
  | .skpVx x | .sknpVx x => { regs := [x], pc := true, key := true }
  | .ldVxDT _ => { dt := true }
  | .ldVxK _ => { pc := true, key := true }
  | .ldDTVx x | .ldSTVx x => { regs := [x] }
  | .addIVx x => { regs := [x], i := true }
  | .ldFVx x => { regs := [x] }
  | .ldBVx x => { regs := [x], i := true }
  | .ldMemIVx x => { regs := regsUpTo x, i := true }
  | .ldVxMemI x => { i := true, mem := blockAddrs s.i.toNat (x.val + 1) }

/-- The condition of a conditional skip (R106 to R109, R180, R181), and none for any other instruction. -/
def skipTaken (i : Instr) (s : State) : Bool :=
  match i with
  | .seVxByte x nn => s.getV x == nn
  | .sneVxByte x nn => s.getV x != nn
  | .seVxVy x y => s.getV x == s.getV y
  | .sneVxVy x y => s.getV x != s.getV y
  | .skpVx x => s.keyDown (keyIndex (s.getV x))
  | .sknpVx x => !s.keyDown (keyIndex (s.getV x))
  | _ => false

/-- The next-PC selection of one executed step (R110), from the state before the step and what its word decodes to: return,
absolute, indexed, rewind, skip taken, or sequential. -/
def nextPc (d : Except Unrecognised Instr) (s : State) : Word :=
  match d with
  | .ok .ret =>
    if h : s.sp.val = 0 then s.pc + 2 else s.stack[s.sp.val - 1]'(by have := s.sp.isLt; omega)
  | .ok (.jpAddr nnn) => nnn.setWidth 16
  | .ok (.callAddr nnn) => if s.sp.val = Config.stackDepth then s.pc + 2 else nnn.setWidth 16
  | .ok (.jpV0Addr nnn) => nnn.setWidth 16 + (s.getV 0).setWidth 16
  | .ok (.ldVxK _) => if ∀ k, s.keyDown k = false then s.pc else s.pc + 2
  | .ok i => if skipTaken i s then s.pc + 4 else s.pc + 2
  | .error _ => s.pc + 2

/-- (px, py) is the on-screen position of a set sprite bit of `DXYN` in s: the set M of R165, with the start position of
R161 and the clipping of R163. -/
def OnSprite (s : State) (x y : Reg) (n : Nibble) (px py : Nat) : Prop :=
  ∃ row col, row < n.val ∧ col < 8 ∧ (s.memRead (s.i.toNat + row)).getLsbD (7 - col) = true ∧
    px = (s.getV x).toNat % 64 + col ∧ py = (s.getV y).toNat % 32 + row ∧ px < 64 ∧ py < 32

/-- The invariant of every run: memory is in canonical form (entry 4); a recorded fault means a halted block (R35, R201);
and a fatal error left the stack pointer where it was (R201, R202, R203). -/
structure Inv (s : State) : Prop where
  memory : s.mem.wf = true
  halted : s.fault ≠ .none → s.run = .halted
  overflow : s.fault = .stackOverflow → s.sp.val = Config.stackDepth
  underflow : s.fault = .stackUnderflow → s.sp.val = 0

/-- The two states differ at most in stack entries at SP or above (R29). -/
structure SameButStale (s s' : State) : Prop where
  rest : s' = { s with stack := s'.stack }
  live : ∀ k (h : k < Config.stackDepth), k < s.sp.val → s'.stack[k] = s.stack[k]

/-- The states of runs: from reset by steps and by actions the host offers, in any order (R45, R60). -/
inductive Reachable : State → Prop
  | reset : Reachable State.reset
  | step {s t : State} (before : Reachable s) (h : Machine.step s = .next t) : Reachable t
  | act {s : State} (before : Reachable s) (a : HostAction) (h : a.offered s = true) : Reachable (a.apply s)

end Sys2Proof.Machine
end

