-- ==== Sys2Proof/Certificates/Slice0/Obligations.lean ====
section
/-! DEFINITION. The statements for the provers. In a statement about `exec`, the state s is the one the instruction's rule
sees: PC is already the address of the instruction plus 2 (40_pc_control.md R100). `Frame p s t` says that t is s outside the
parts p: every register, stack entry and byte of memory not named there, and every other field, is unchanged. "Decision D<n>"
is the spec's own decision of 92_eei_decisions.md; "entry <n>" is notes/assumptions/<n>.md. -/

open Sys2Proof Sys2Proof.Machine

/-! ## The step -/

/-- R52: the fetched word is the byte at PC times 256 plus the byte at PC + 1: the lower address is the most significant. -/
def Obligations.FetchIsBigEndian : Prop :=
  ∀ s : State, s.fetchWord.toNat = 256 * (s.memRead s.pc.toNat).toNat + (s.memRead (s.pc.toNat + 1)).toNat

/-- R100: outside Running a step changes nothing (decision D17); in Running, when the bytes at PC and PC + 1 decode to a
well-formed instruction i, the step is exec of i at the state whose PC is advanced by 2 modulo 2^16. -/
def Obligations.StepRunsTheDecodedInstruction : Prop :=
  ∀ s : State,
    (s.run ≠ .running → step s = .next s) ∧
    (s.run = .running → ∀ i : Instr,
      decode (wordOfBytes (s.memRead s.pc.toNat) (s.memRead (s.pc.toNat + 1))) = .ok i → i.wellFormed = true →
      step s = exec i { s with pc := BitVec.ofNat 16 (s.pc.toNat + 2) })

/-- R205 with the event history of entry 1 (decision D11): an unrecognised word is reported with its fetch address, PC
keeps the fetch advance, and nothing else changes. -/
def Obligations.UnrecognisedWordIsReportedAndSkipped : Prop :=
  ∀ (s : State) (e : Unrecognised), s.run = .running → decode s.fetchWord = .error e →
    ∃ t, step s = .next t ∧ t.pc = s.pc + 2 ∧ t.reports = s.reports ++ [⟨s.fetchWord, s.pc⟩] ∧
      Frame { pc := true, reports := true } s t

/-- No step faults and none is refused. This is the model's deduction (entry 8), no rule of the spec: every word has a
behaviour (R82, R205), no access raises an error (R53), and a fatal error is a next state (R201). -/
def Obligations.EveryStepAnswersANextState : Prop :=
  ∀ s : State, ∃ t, step s = .next t

/-- R110: the PC after a step of a running block is the one the table selects. -/
def Obligations.NextPcIsOneOfTheSelectedValues : Prop :=
  ∀ s t : State, s.run = .running → step s = .next t → t.pc = nextPc (decode s.fetchWord) s

/-- R103 and R236: a jump to its own address leaves the whole state unchanged, step after step. -/
def Obligations.SelfJumpStepChangesNothing : Prop :=
  ∀ (s : State) (nnn : Addr12), s.run = .running → s.pc.toNat = nnn.toNat → s.fetchWord = wordNNN 0x1 nnn →
    step s = .next s

/-- R183 and R241: a step that waits in FX0A with no key pressed leaves the whole state unchanged, PC included. -/
def Obligations.KeyWaitStepChangesNothing : Prop :=
  ∀ (s : State) (x : Reg), s.run = .running → s.fetchWord = wordXNN 0xF x 0x0A → (∀ k, s.keyDown k = false) →
    step s = .next s

/-! ## The invariant -/

/-- The reset state meets the invariant. -/
def Obligations.ResetStateMeetsInvariant : Prop := Inv State.reset

/-- Every step keeps the invariant: memory stays canonical (entry 4), a recorded fault means Halted, and a fatal error
leaves the stack pointer full or empty as it was (R35, R201 to R203). -/
def Obligations.EveryStepKeepsInvariant : Prop :=
  ∀ s t : State, Inv s → step s = .next t → Inv t

/-- Every host action keeps the invariant, a load of any image among them. -/
def Obligations.EveryHostActionKeepsInvariant : Prop :=
  ∀ (a : HostAction) (s : State), Inv s → Inv (a.apply s)

/-- Every state of every run of steps and offered host actions from reset meets the invariant (R45, R60). -/
def Obligations.EveryReachableStateMeetsInvariant : Prop :=
  ∀ s : State, Reachable s → Inv s

/-- Canonical form (entry 4): two canonical memories that read alike everywhere are the same list. -/
def Obligations.CanonicalMemoriesThatReadAlikeAreEqual : Prop :=
  ∀ m m' : Memory, m.wf = true → m'.wf = true → (∀ a, m.read a = m'.read a) → m = m'

/-! ## Who writes and who reads what -/

/-- The W columns of R23: whatever an instruction does, the state is unchanged outside the parts R23 lets it write, every
byte of memory outside the addresses it stores to included. -/
def Obligations.InstructionsWriteOnlyWhatTheAccessTableSays : Prop :=
  ∀ (i : Instr) (s t : State), exec i s = .next t → Frame (writesOf i s) s t

/-- The R columns of R23, as non-interference: two states that agree on what an instruction reads lead to states that
agree on what it writes, whatever else differs (keys, timers, memory, the framebuffer, other registers). -/
def Obligations.InstructionsReadOnlyWhatTheAccessTableSays : Prop :=
  ∀ (i : Instr) (s s' : State), AgreeOn (readsOf i s) s s' →
    ∃ t t', exec i s = .next t ∧ exec i s' = .next t' ∧ AgreeOn (writesOf i s) t t'

/-- The only instructions that change each dedicated part of the state in a step (R24, R28, R30 to R33, R35, R63). -/
def Obligations.DedicatedStateHasOnlyItsNamedWriters : Prop :=
  ∀ s t : State, step s = .next t →
    (t.i ≠ s.i → (∃ nnn, decode s.fetchWord = .ok (.ldIAddr nnn)) ∨ (∃ x, decode s.fetchWord = .ok (.addIVx x)) ∨
      ∃ x, decode s.fetchWord = .ok (.ldFVx x)) ∧
    (t.sp ≠ s.sp ∨ t.stack ≠ s.stack →
      decode s.fetchWord = .ok .ret ∨ ∃ nnn, decode s.fetchWord = .ok (.callAddr nnn)) ∧
    (t.dt ≠ s.dt → ∃ x, decode s.fetchWord = .ok (.ldDTVx x)) ∧
    (t.st ≠ s.st → ∃ x, decode s.fetchWord = .ok (.ldSTVx x)) ∧
    (t.mem ≠ s.mem → (∃ x, decode s.fetchWord = .ok (.ldBVx x)) ∨ ∃ x, decode s.fetchWord = .ok (.ldMemIVx x)) ∧
    (t.fb ≠ s.fb → decode s.fetchWord = .ok .cls ∨ ∃ x y n, decode s.fetchWord = .ok (.drwVxVyNibble x y n)) ∧
    (t.run ≠ s.run ∨ t.fault ≠ s.fault →
      decode s.fetchWord = .ok .ret ∨ ∃ nnn, decode s.fetchWord = .ok (.callAddr nnn)) ∧
    t.key = s.key

/-- R22: VF changes only by the six flag-writing instructions, whatever their X, or as the named destination VX with
X = F. -/
def Obligations.VfHasOnlyItsNamedWriters : Prop :=
  ∀ (i : Instr) (s t : State), exec i s = .next t → t.getV VF ≠ s.getV VF →
    (∃ x y, i = .addVxVy x y ∨ i = .subVxVy x y ∨ i = .shrVxVy x y ∨ i = .subnVxVy x y ∨ i = .shlVxVy x y) ∨
    (∃ x y n, i = .drwVxVyNibble x y n) ∨
    (∃ nn, i = .ldVxByte VF nn ∨ i = .addVxByte VF nn ∨ i = .rndVxByte VF nn) ∨
    (∃ y, i = .ldVxVy VF y ∨ i = .orVxVy VF y ∨ i = .andVxVy VF y ∨ i = .xorVxVy VF y) ∨
    i = .ldVxDT VF ∨ i = .ldVxK VF ∨ i = .ldVxMemI VF

/-- R29: stack entries at SP or above cannot be observed: two states that differ only there step to states that differ
only there. -/
def Obligations.StaleStackEntriesCannotBeObserved : Prop :=
  ∀ s s' : State, SameButStale s s' →
    ∃ t t', step s = .next t ∧ step s' = .next t' ∧ SameButStale t t'

/-! ## Encoding -/

/-- Decoding the word of any well-formed instruction gives it back, with every operand; from bytes, the rest of the list is
left over. -/
def Obligations.DecodingAnEncodedInstructionGivesItBack : Prop :=
  ∀ i : Instr, i.wellFormed = true →
    decode (encode i) = .ok i ∧ ∀ rest, decodeBytes (encodeBytes i ++ rest) = .ok (i, rest)

/-- Each word has one meaning: the word that decodes to i is the word that encodes i. -/
def Obligations.DecodedInstructionEncodesToItsWord : Prop :=
  ∀ (op : Word) (i : Instr), decode op = .ok i → encode i = op

/-- R71: the six fields at their bit positions, as numbers, and their overlaps NNN = X : Y : N and NN = Y : N. -/
def Obligations.FieldsStandAtTheirBitPositions : Prop :=
  ∀ op : Word,
    (fieldClass op).toNat = op.toNat / 4096 ∧ (fieldX op).val = op.toNat / 256 % 16 ∧
    (fieldY op).val = op.toNat / 16 % 16 ∧ (fieldN op).val = op.toNat % 16 ∧
    (fieldNN op).toNat = op.toNat % 256 ∧ (fieldNNN op).toNat = op.toNat % 4096 ∧
    (fieldNNN op).toNat = (fieldX op).val * 256 + (fieldY op).val * 16 + (fieldN op).val ∧
    (fieldNN op).toNat = (fieldY op).val * 16 + (fieldN op).val

/-- R73 against the decoder of R74: the map has 34 rows; a word decodes to an instruction of the row it matches by `op AND
mask == match`; a word that matches a row decodes; at most one row matches any word. -/
def Obligations.OpcodeMapAndDecoderAgree : Prop :=
  opcodeTable.length = 34 ∧
  (∀ (op : Word) (i : Instr), decode op = .ok i → ∃ row ∈ opcodeTable, row.matches op = true ∧ row.mnemonic = i.mnemonic) ∧
  (∀ op : Word, ∀ row ∈ opcodeTable, row.matches op = true → ∃ i, decode op = .ok i ∧ i.mnemonic = row.mnemonic) ∧
  (∀ op : Word, ∀ row ∈ opcodeTable, ∀ row' ∈ opcodeTable, row.matches op = true → row'.matches op = true → row = row')

/-- R75 to R79 (exact digits: decision D10): which words of each class are unrecognised, and that no other word is. -/
def Obligations.UnrecognisedWordsOfEachClass : Prop :=
  ∀ op : Word,
    (decode op = .error .class0 ↔ fieldClass op = 0x0 ∧ op ≠ 0x00E0 ∧ op ≠ 0x00EE) ∧
    (decode op = .error .class5 ↔ fieldClass op = 0x5 ∧ fieldN op ≠ 0) ∧
    (decode op = .error .class9 ↔ fieldClass op = 0x9 ∧ fieldN op ≠ 0) ∧
    (decode op = .error .class8 ↔
      fieldClass op = 0x8 ∧ fieldN op ∈ ([0x8, 0x9, 0xA, 0xB, 0xC, 0xD, 0xF] : List Nibble)) ∧
    (decode op = .error .classE ↔ fieldClass op = 0xE ∧ fieldNN op ≠ 0x9E ∧ fieldNN op ≠ 0xA1) ∧
    (decode op = .error .classF ↔ fieldClass op = 0xF ∧
      fieldNN op ∉ ([0x07, 0x0A, 0x15, 0x18, 0x1E, 0x29, 0x33, 0x55, 0x65] : List Byte)) ∧
    decode op ≠ .error .truncated

/-- R80: of the 4096 words of each class, how many are unrecognised, and in all: 21582 of the 65536 words. -/
def Obligations.UnrecognisedWordCounts : Prop :=
  let counts : List Nat := [4094, 0, 0, 0, 0, 3840, 0, 0, 1792, 3840, 0, 0, 0, 0, 4064, 3952]
  (∀ c : Fin 16,
    (List.range 4096).countP (fun n => !(decode (wordNNN (nibbleBits c) (BitVec.ofNat 12 n))).isOk) =
      counts.getD c.val 0) ∧
  counts.sum = 21582 ∧ 65536 - counts.sum = 43954

/-- Words written out from the patterns of R73, one or more of each family, decode to what the spec says of them. -/
def Obligations.WordsFromTheSpecDecodeAsItSays : Prop :=
  decode 0x00E0 = .ok .cls ∧ decode 0x00EE = .ok .ret ∧ decode 0x1FFF = .ok (.jpAddr 0xFFF) ∧
  decode 0x5120 = .ok (.seVxVy 1 2) ∧ decode 0x9AB0 = .ok (.sneVxVy 10 11) ∧ decode 0x8ABE = .ok (.shlVxVy 10 11) ∧
  decode 0x6A42 = .ok (.ldVxByte 10 0x42) ∧ decode 0xD015 = .ok (.drwVxVyNibble 0 1 5) ∧
  decode 0xE39E = .ok (.skpVx 3) ∧ decode 0xF00A = .ok (.ldVxK 0) ∧ decode 0xFF65 = .ok (.ldVxMemI 15) ∧
  decode 0x0000 = .error .class0 ∧ decode 0x01E0 = .error .class0 ∧ decode 0x5121 = .error .class5 ∧
  decode 0x8AB8 = .error .class8 ∧ decode 0xE39F = .error .classE ∧ decode 0xFFFF = .error .classF

/-! ## PC control -/

/-- R103 and R105: 1NNN sets PC to NNN; BNNN sets it to NNN + V0, not reduced. Nothing else changes. -/
def Obligations.JumpsSetPcOnly : Prop :=
  ∀ nnn : Addr12,
    decode (wordNNN 0x1 nnn) = .ok (.jpAddr nnn) ∧ decode (wordNNN 0xB nnn) = .ok (.jpV0Addr nnn) ∧
    ∀ s : State,
      (∃ t, exec (.jpAddr nnn) s = .next t ∧ t.pc.toNat = nnn.toNat ∧ Frame { pc := true } s t) ∧
      (∃ t, exec (.jpV0Addr nnn) s = .next t ∧ t.pc.toNat = nnn.toNat + (s.getV 0).toNat ∧ Frame { pc := true } s t)

/-- R104: 2NNN pushes the return address and jumps while SP is below 16 (the depth is decision D4); with SP = 16 it is fatal
and neither pushes nor jumps: RUN becomes Halted and FAULT takes StackOverflow if it held None (R201, decision D5; both
decisions: entry 5). -/
def Obligations.CallPushesAndJumpsOrOverflows : Prop :=
  ∀ nnn : Addr12, decode (wordNNN 0x2 nnn) = .ok (.callAddr nnn) ∧
    ∀ s : State,
      (∀ h : s.sp.val < 16, ∃ t, exec (.callAddr nnn) s = .next t ∧ t.stack[s.sp.val]'h = s.pc ∧
        t.sp.val = s.sp.val + 1 ∧ t.pc.toNat = nnn.toNat ∧ Frame { pc := true, sp := true, stack := [s.sp.val] } s t) ∧
      (s.sp.val = 16 → ∃ t, exec (.callAddr nnn) s = .next t ∧ t.run = .halted ∧
        t.fault = (if s.fault = .none then .stackOverflow else s.fault) ∧ Frame { run := true, fault := true } s t)

/-- R102: 00EE pops the return address into PC while SP is above 0; with SP = 0 it is fatal and does not pop: RUN becomes
Halted and FAULT takes StackUnderflow if it held None (R201, decision D5, entry 5). -/
def Obligations.ReturnPopsOrUnderflows : Prop :=
  decode 0x00EE = .ok .ret ∧
    ∀ s : State,
      (∀ h : 0 < s.sp.val, ∃ t, exec .ret s = .next t ∧
        t.pc = s.stack[s.sp.val - 1]'(by have := s.sp.isLt; omega) ∧ t.sp.val + 1 = s.sp.val ∧
        Frame { pc := true, sp := true } s t) ∧
      (s.sp.val = 0 → ∃ t, exec .ret s = .next t ∧ t.run = .halted ∧
        t.fault = (if s.fault = .none then .stackUnderflow else s.fault) ∧ Frame { run := true, fault := true } s t)

/-- R102 and R104: 2NNN and then 00EE, wherever it stands, resume at the address after the call with the stack pointer as
before. -/
def Obligations.ReturnResumesAfterItsCall : Prop :=
  ∀ (s : State) (nnn : Addr12), s.sp.val < 16 →
    ∃ t, exec (.callAddr nnn) s = .next t ∧
      ∀ pc : Word, ∃ u, exec .ret { t with pc := pc } = .next u ∧ u.pc = s.pc ∧ u.sp = s.sp

/-- R106 to R109 with the skip of R101: PC moves by 2 more exactly when the comparison holds; nothing else changes. -/
def Obligations.RegisterSkipsMovePcOnTheirCondition : Prop :=
  ∀ (x y : Reg) (nn : Byte),
    decode (wordXNN 0x3 x nn) = .ok (.seVxByte x nn) ∧ decode (wordXNN 0x4 x nn) = .ok (.sneVxByte x nn) ∧
    decode (wordXYN 0x5 x y 0) = .ok (.seVxVy x y) ∧ decode (wordXYN 0x9 x y 0) = .ok (.sneVxVy x y) ∧
    ∀ s : State,
      (∃ t, exec (.seVxByte x nn) s = .next t ∧ t.pc = (if s.getV x = nn then s.pc + 2 else s.pc) ∧
        Frame { pc := true } s t) ∧
      (∃ t, exec (.sneVxByte x nn) s = .next t ∧ t.pc = (if s.getV x = nn then s.pc else s.pc + 2) ∧
        Frame { pc := true } s t) ∧
      (∃ t, exec (.seVxVy x y) s = .next t ∧ t.pc = (if s.getV x = s.getV y then s.pc + 2 else s.pc) ∧
        Frame { pc := true } s t) ∧
      (∃ t, exec (.sneVxVy x y) s = .next t ∧ t.pc = (if s.getV x = s.getV y then s.pc else s.pc + 2) ∧
        Frame { pc := true } s t)

/-! ## ALU -/

/-- R122: 6XNN loads NN into VX, VF included, and changes nothing else. -/
def Obligations.LoadImmediateWritesVx : Prop :=
  ∀ (x : Reg) (nn : Byte), decode (wordXNN 0x6 x nn) = .ok (.ldVxByte x nn) ∧
    ∀ s : State, ∃ t, exec (.ldVxByte x nn) s = .next t ∧ t.getV x = nn ∧ Frame { regs := [x] } s t

/-- R123: 7XNN adds NN to VX modulo 256, with no flag. -/
def Obligations.AddImmediateWrapsWithoutFlag : Prop :=
  ∀ (x : Reg) (nn : Byte), decode (wordXNN 0x7 x nn) = .ok (.addVxByte x nn) ∧
    ∀ s : State, ∃ t, exec (.addVxByte x nn) s = .next t ∧ (t.getV x).toNat = ((s.getV x).toNat + nn.toNat) % 256 ∧
      Frame { regs := [x] } s t

/-- R124 to R127: copy, or, and, exclusive or, bit by bit; VF is not reset. -/
def Obligations.CopyAndLogicWriteVxOnly : Prop :=
  ∀ x y : Reg,
    decode (wordXYN 0x8 x y 0x0) = .ok (.ldVxVy x y) ∧ decode (wordXYN 0x8 x y 0x1) = .ok (.orVxVy x y) ∧
    decode (wordXYN 0x8 x y 0x2) = .ok (.andVxVy x y) ∧ decode (wordXYN 0x8 x y 0x3) = .ok (.xorVxVy x y) ∧
    ∀ s : State,
      (∃ t, exec (.ldVxVy x y) s = .next t ∧ t.getV x = s.getV y ∧ Frame { regs := [x] } s t) ∧
      (∃ t, exec (.orVxVy x y) s = .next t ∧
        (∀ k < 8, (t.getV x).getLsbD k = ((s.getV x).getLsbD k || (s.getV y).getLsbD k)) ∧ Frame { regs := [x] } s t) ∧
      (∃ t, exec (.andVxVy x y) s = .next t ∧
        (∀ k < 8, (t.getV x).getLsbD k = ((s.getV x).getLsbD k && (s.getV y).getLsbD k)) ∧ Frame { regs := [x] } s t) ∧
      (∃ t, exec (.xorVxVy x y) s = .next t ∧
        (∀ k < 8, (t.getV x).getLsbD k = ((s.getV x).getLsbD k ^^ (s.getV y).getLsbD k)) ∧ Frame { regs := [x] } s t)

/-- R128: 8XY4 leaves the sum modulo 256 in VX, and the carry in VF unless X = F. That the sum ends in VF at X = F, and that
the old VF is the addend at Y = F, is the order of R121: operands latched, VF written first, VX last (decision D6, entry 5). -/
def Obligations.AddLeavesSumAndCarry : Prop :=
  ∀ x y : Reg, decode (wordXYN 0x8 x y 0x4) = .ok (.addVxVy x y) ∧
    ∀ s : State, ∃ t, exec (.addVxVy x y) s = .next t ∧
      (t.getV x).toNat = ((s.getV x).toNat + (s.getV y).toNat) % 256 ∧
      (x ≠ VF → t.getV VF = if (s.getV x).toNat + (s.getV y).toNat > 255 then 1 else 0) ∧
      Frame { regs := [VF, x] } s t

/-- R129 and R131: 8XY5 leaves VX − VY, 8XY7 leaves VY − VX, modulo 256, in VX; VF is 1 exactly when the minuend is
strictly greater, unless X = F. That the difference ends in VF at X = F, and that the old VF is the operand at Y = F, is the
order of R121: operands latched, VF written first, VX last (decision D6, entry 5). -/
def Obligations.SubtractionsLeaveDifferenceAndStrictFlag : Prop :=
  ∀ x y : Reg,
    decode (wordXYN 0x8 x y 0x5) = .ok (.subVxVy x y) ∧ decode (wordXYN 0x8 x y 0x7) = .ok (.subnVxVy x y) ∧
    ∀ s : State,
      (∃ t, exec (.subVxVy x y) s = .next t ∧
        ((t.getV x).toNat : Int) = (((s.getV x).toNat : Int) - (s.getV y).toNat) % 256 ∧
        (x ≠ VF → t.getV VF = if (s.getV x).toNat > (s.getV y).toNat then 1 else 0) ∧ Frame { regs := [VF, x] } s t) ∧
      (∃ t, exec (.subnVxVy x y) s = .next t ∧
        ((t.getV x).toNat : Int) = (((s.getV y).toNat : Int) - (s.getV x).toNat) % 256 ∧
        (x ≠ VF → t.getV VF = if (s.getV y).toNat > (s.getV x).toNat then 1 else 0) ∧ Frame { regs := [VF, x] } s t)

/-- R130 and R132: the shifts by one of VX, whatever Y; VF is the bit shifted out, unless X = F. That the result
ends in VF at X = F is the write order of R121: VF first, VX last (decision D6, entry 5). -/
def Obligations.ShiftsLeaveTheBitShiftedOut : Prop :=
  ∀ x y : Reg,
    decode (wordXYN 0x8 x y 0x6) = .ok (.shrVxVy x y) ∧ decode (wordXYN 0x8 x y 0xE) = .ok (.shlVxVy x y) ∧
    ∀ s : State,
      (∃ t, exec (.shrVxVy x y) s = .next t ∧ (t.getV x).toNat = (s.getV x).toNat / 2 ∧
        (x ≠ VF → (t.getV VF).toNat = (s.getV x).toNat % 2) ∧ Frame { regs := [VF, x] } s t) ∧
      (∃ t, exec (.shlVxVy x y) s = .next t ∧ (t.getV x).toNat = (s.getV x).toNat * 2 % 256 ∧
        (x ≠ VF → (t.getV VF).toNat = (s.getV x).toNat / 128) ∧ Frame { regs := [VF, x] } s t)

/-- R133: CXNN leaves the free byte of its draw (decision D15, entry 2) masked by NN, so no bit clear in NN is set; one
draw is consumed. It holds whatever byte the draw is. -/
def Obligations.RandomByteIsMasked : Prop :=
  ∀ (x : Reg) (nn : Byte), decode (wordXNN 0xC x nn) = .ok (.rndVxByte x nn) ∧
    ∀ s : State, ∃ t, exec (.rndVxByte x nn) s = .next t ∧ t.getV x = Config.freeDraw s.draws &&& nn ∧
      (∀ k, nn.getLsbD k = false → (t.getV x).getLsbD k = false) ∧ t.draws = s.draws + 1 ∧
      Frame { regs := [x], draws := true } s t

/-! ## Index register and memory transfer -/

/-- R140 and R142: ANNN sets I to NNN; FX29 sets it to FONT_BASE + VX × 5, VX not masked. FONT_BASE = 0x050 is a parameter
of R6 at this hardware's value (decision D12, entry 5). -/
def Obligations.IndexLoadsSetIOnly : Prop :=
  (∀ nnn : Addr12, decode (wordNNN 0xA nnn) = .ok (.ldIAddr nnn) ∧
    ∀ s : State, ∃ t, exec (.ldIAddr nnn) s = .next t ∧ t.i.toNat = nnn.toNat ∧ Frame { i := true } s t) ∧
  (∀ x : Reg, decode (wordXNN 0xF x 0x29) = .ok (.ldFVx x) ∧
    ∀ s : State, ∃ t, exec (.ldFVx x) s = .next t ∧ t.i.toNat = 0x050 + (s.getV x).toNat * 5 ∧ Frame { i := true } s t)

/-- R141: FX1E adds VX to I modulo 2^16 (decision D3); VF is unchanged. -/
def Obligations.AddToIndexWrapsWithoutFlag : Prop :=
  ∀ x : Reg, decode (wordXNN 0xF x 0x1E) = .ok (.addIVx x) ∧
    ∀ s : State, ∃ t, exec (.addIVx x) s = .next t ∧ t.i.toNat = (s.i.toNat + (s.getV x).toNat) % 65536 ∧
      Frame { i := true } s t

/-- R143: FX33 stores the decimal digits of VX at I, I + 1 and I + 2, modulo 4096, and no other byte; I is unchanged
(decision D9). -/
def Obligations.DecimalDigitsAreStoredAtI : Prop :=
  ∀ x : Reg, decode (wordXNN 0xF x 0x33) = .ok (.ldBVx x) ∧
    ∀ s : State, ∃ t, exec (.ldBVx x) s = .next t ∧
      (t.memRead s.i.toNat).toNat = (s.getV x).toNat / 100 ∧
      (t.memRead (s.i.toNat + 1)).toNat = (s.getV x).toNat / 10 % 10 ∧
      (t.memRead (s.i.toNat + 2)).toNat = (s.getV x).toNat % 10 ∧
      Frame { mem := blockAddrs s.i.toNat 3 } s t

/-- R144: FX55 stores V0 to VX at I upward, modulo 4096, and no other byte; I is unchanged (decision D9). -/
def Obligations.RegisterBlockIsStoredAtI : Prop :=
  ∀ x : Reg, decode (wordXNN 0xF x 0x55) = .ok (.ldMemIVx x) ∧
    ∀ s : State, ∃ t, exec (.ldMemIVx x) s = .next t ∧
      (∀ r : Reg, r.val ≤ x.val → t.memRead (s.i.toNat + r.val) = s.getV r) ∧
      Frame { mem := blockAddrs s.i.toNat (x.val + 1) } s t

/-- R145: FX65 loads V0 to VX from I upward, modulo 4096; the registers above X, I (decision D9) and every byte of memory
are unchanged. -/
def Obligations.RegisterBlockIsLoadedFromI : Prop :=
  ∀ x : Reg, decode (wordXNN 0xF x 0x65) = .ok (.ldVxMemI x) ∧
    ∀ s : State, ∃ t, exec (.ldVxMemI x) s = .next t ∧
      (∀ r : Reg, r.val ≤ x.val → t.getV r = s.memRead (s.i.toNat + r.val)) ∧
      (∀ r : Reg, x.val < r.val → t.getV r = s.getV r) ∧
      Frame { regs := regsUpTo x } s t

/-- R58: every byte is plain storage: a read gives the byte last written there, and a write leaves every other address of
the 4096 alone. An address a of 4096 or more names the byte at a modulo 4096 (R53, decision D2, entry 5). -/
def Obligations.MemoryIsPlainStorage : Prop :=
  ∀ (s : State) (a : Nat) (b : Byte),
    (s.memWrite a b).memRead a = b ∧ ∀ c < 4096, c ≠ a % 4096 → (s.memWrite a b).memRead c = s.memRead c

/-- R53, R64 and R112 (decision D2): addresses wrap modulo 4096, for reads, writes and the fetch. -/
def Obligations.AddressesWrapModulo4096 : Prop :=
  ∀ (s : State) (a : Nat) (b : Byte),
    s.memRead a = s.memRead (a % 4096) ∧ s.memWrite a b = s.memWrite (a % 4096) b ∧
    ({ s with pc := s.pc + 0x1000 } : State).fetchWord = s.fetchWord ∧
    (s.pc = 0x0FFF → s.fetchWord = wordOfBytes (s.memRead 0xFFF) (s.memRead 0x000))

/-- R62 (decision D19), with the addresses of R53 (decision D2): every byte that FX55 or FX33 stores is seen by a fetch
in any later state whose memory is still as the store left it: as the high byte of the word fetched at its address and as the
low byte of the word fetched at the address before. So a fetch at I + k reads Vk : V(k+1) for every k + 1 ≤ X after FX55,
and after FX33 a fetch at I reads hundreds : tens, and at I + 1 tens : units. -/
def Obligations.FetchSeesEarlierStores : Prop :=
  ∀ (s : State) (x : Reg),
    (∃ t, exec (.ldMemIVx x) s = .next t ∧ ∀ u : State, u.mem = t.mem →
      (∀ r : Reg, r.val ≤ x.val →
        (u.pc = s.i + BitVec.ofNat 16 r.val → highByte u.fetchWord = s.getV r) ∧
        (u.pc = s.i + BitVec.ofNat 16 r.val - 1 → lowByte u.fetchWord = s.getV r)) ∧
      (∀ r r' : Reg, r.val + 1 = r'.val → r'.val ≤ x.val → u.pc = s.i + BitVec.ofNat 16 r.val →
        u.fetchWord = wordOfBytes (s.getV r) (s.getV r'))) ∧
    (∃ t, exec (.ldBVx x) s = .next t ∧ ∀ u : State, u.mem = t.mem →
      (u.pc = s.i - 1 → (lowByte u.fetchWord).toNat = (s.getV x).toNat / 100) ∧
      (u.pc = s.i → u.fetchWord.toNat = 256 * ((s.getV x).toNat / 100) + (s.getV x).toNat / 10 % 10) ∧
      (u.pc = s.i + 1 → u.fetchWord.toNat = 256 * ((s.getV x).toNat / 10 % 10) + (s.getV x).toNat % 10) ∧
      (u.pc = s.i + 2 → (highByte u.fetchWord).toNat = (s.getV x).toNat % 10))

/-- R146: the bytes of one block (at most 16, so at distinct addresses) may be stored in any order: every byte of memory
then reads the same. -/
def Obligations.StoreOrderWithinOneBlockCannotBeObserved : Prop :=
  ∀ (s : State) (a : Nat) (bs : List Byte) (ps : List (Nat × Byte)), bs.length ≤ 16 →
    ps.Perm (bs.zipIdx.map (fun p => (a + p.2, p.1))) →
    ∀ c, (ps.foldl (fun t p => t.memWrite p.1 p.2) s).memRead c = (s.storeBytes a bs).memRead c

/-! ## Framebuffer -/

/-- R160: 00E0 clears every pixel and changes nothing else. -/
def Obligations.ClearLeavesABlankFramebuffer : Prop :=
  decode 0x00E0 = .ok .cls ∧
    ∀ s : State, ∃ t, exec .cls s = .next t ∧ (∀ px < 64, ∀ py < 32, t.fb.pixel px py = false) ∧ Frame { fb := true } s t

/-- R161 to R165 (operands latched first, I unchanged: decisions D6, D9): DXYN flips exactly the on-screen positions of the
sprite's set bits; VF is 1 if one of them was set before and 0 otherwise. -/
def Obligations.DrawXorsTheSpriteAndLatchesCollision : Prop :=
  ∀ (x y : Reg) (n : Nibble), decode (wordXYN 0xD x y n) = .ok (.drwVxVyNibble x y n) ∧
    ∀ s : State, ∃ t, exec (.drwVxVyNibble x y n) s = .next t ∧
      (∀ px < 64, ∀ py < 32, OnSprite s x y n px py → t.fb.pixel px py = !s.fb.pixel px py) ∧
      (∀ px < 64, ∀ py < 32, ¬OnSprite s x y n px py → t.fb.pixel px py = s.fb.pixel px py) ∧
      ((∃ px py, OnSprite s x y n px py ∧ s.fb.pixel px py = true) → t.getV VF = 1) ∧
      ((∀ px py, OnSprite s x y n px py → s.fb.pixel px py = false) → t.getV VF = 0) ∧
      Frame { regs := [VF], fb := true } s t

/-- R164: after a draw VF is 1 exactly when the draw turned at least one pixel from 1 to 0, and otherwise 0. -/
def Obligations.CollisionMeansAPixelWasTurnedOff : Prop :=
  ∀ (x y : Reg) (n : Nibble) (s : State), ∃ t, exec (.drwVxVyNibble x y n) s = .next t ∧
    (t.getV VF = 1 ↔ ∃ px py, px < 64 ∧ py < 32 ∧ s.fb.pixel px py = true ∧ t.fb.pixel px py = false) ∧
    (t.getV VF = 1 ∨ t.getV VF = 0)

/-- R166, with the spec's own reading of the second draw's VF (90_conflicts.md C8): a second draw of the same sprite at
the same place, with nothing between them that changes FB, VX, VY, I or the sprite bytes, restores FB; its VF is 1 exactly
when some position of the sprite was 0 before the first draw. -/
def Obligations.SecondDrawRestoresTheFramebuffer : Prop :=
  ∀ (x y : Reg) (n : Nibble) (s : State), x ≠ VF → y ≠ VF →
    ∃ t, exec (.drwVxVyNibble x y n) s = .next t ∧
      ∀ t' : State, t'.fb = t.fb → t'.getV x = t.getV x → t'.getV y = t.getV y → t'.i = t.i →
        (∀ row < n.val, t'.memRead (s.i.toNat + row) = s.memRead (s.i.toNat + row)) →
        ∃ u, exec (.drwVxVyNibble x y n) t' = .next u ∧ u.fb = s.fb ∧
          (u.getV VF = 1 ↔ ∃ px py, OnSprite s x y n px py ∧ s.fb.pixel px py = false)

/-! ## Keys and timers -/

/-- R180, R181 with the key index of R187 (VX modulo 16: decision D8): the key skips. -/
def Obligations.KeySkipsReadTheKeyLevel : Prop :=
  ∀ x : Reg, decode (wordXNN 0xE x 0x9E) = .ok (.skpVx x) ∧ decode (wordXNN 0xE x 0xA1) = .ok (.sknpVx x) ∧
    ∀ (s : State) (k : Fin 16), k.val = (s.getV x).toNat % 16 →
      (∃ t, exec (.skpVx x) s = .next t ∧ t.pc = (if s.keyDown k = true then s.pc + 2 else s.pc) ∧
        Frame { pc := true } s t) ∧
      (∃ t, exec (.sknpVx x) s = .next t ∧ t.pc = (if s.keyDown k = true then s.pc else s.pc + 2) ∧
        Frame { pc := true } s t)

/-- R183: FX0A with a key pressed takes the least one (decision D7); with none it only moves PC back to its own word. -/
def Obligations.KeyWaitTakesTheLeastPressedKey : Prop :=
  ∀ x : Reg, decode (wordXNN 0xF x 0x0A) = .ok (.ldVxK x) ∧
    ∀ s : State,
      (∀ k : Fin 16, s.keyDown k = true → (∀ j < k, s.keyDown j = false) →
        ∃ t, exec (.ldVxK x) s = .next t ∧ (t.getV x).toNat = k.val ∧ Frame { regs := [x] } s t) ∧
      ((∀ k, s.keyDown k = false) → ∃ t, exec (.ldVxK x) s = .next t ∧ t.pc = s.pc - 2 ∧ Frame { pc := true } s t)

/-- R182, R184 and R185: the timer transfers. -/
def Obligations.TimerTransfersCopyOneByte : Prop :=
  ∀ x : Reg, decode (wordXNN 0xF x 0x07) = .ok (.ldVxDT x) ∧ decode (wordXNN 0xF x 0x15) = .ok (.ldDTVx x) ∧
    decode (wordXNN 0xF x 0x18) = .ok (.ldSTVx x) ∧
    ∀ s : State,
      (∃ t, exec (.ldVxDT x) s = .next t ∧ t.getV x = s.dt ∧ Frame { regs := [x] } s t) ∧
      (∃ t, exec (.ldDTVx x) s = .next t ∧ t.dt = s.getV x ∧ Frame { dt := true } s t) ∧
      (∃ t, exec (.ldSTVx x) s = .next t ∧ t.st = s.getV x ∧ Frame { st := true } s t)

/-! ## Fatal errors and the run state -/

/-- R202 and R203, through the record R201 makes of the cause in FAULT while it holds None (decision D5; SP = 16 is decision
D4; both: entry 5): with FAULT None before it, a step of a running block records StackOverflow exactly when it executes 2NNN
with SP = 16, and StackUnderflow exactly when it executes 00EE with SP = 0. -/
def Obligations.StackFaultsComeOnlyFromCallAndReturn : Prop :=
  ∀ s t : State, s.run = .running → s.fault = .none → step s = .next t →
    (t.fault = .stackOverflow ↔ s.sp.val = 16 ∧ ∃ nnn, decode s.fetchWord = .ok (.callAddr nnn)) ∧
    (t.fault = .stackUnderflow ↔ s.sp.val = 0 ∧ decode s.fetchWord = .ok .ret)

/-- R201 (decision D5): a fatal step keeps the fetch advance, halts, records its cause if FAULT was None, changes nothing
else, and every later step does nothing. -/
def Obligations.FatalErrorsArePreciseAndHalt : Prop :=
  ∀ (s : State) (c : FaultCode), s.run = .running →
    ((c = .stackOverflow ∧ s.sp.val = 16 ∧ ∃ nnn, decode s.fetchWord = .ok (.callAddr nnn)) ∨
      (c = .stackUnderflow ∧ s.sp.val = 0 ∧ decode s.fetchWord = .ok .ret)) →
    ∃ t, step s = .next t ∧ t.pc = s.pc + 2 ∧ t.run = .halted ∧ t.fault = (if s.fault = .none then c else s.fault) ∧
      Frame { pc := true, run := true, fault := true } s t ∧ step t = .next t

/-- R34 (decision D17): the transitions of RUN by a step, the pause toggle and the quit; and Halted is left only by a
reset, whatever else happens. -/
def Obligations.RunStateTransitions : Prop :=
  (∀ s t : State, step s = .next t → t.run = s.run ∨ (s.run = .running ∧ t.run = .halted)) ∧
  (∀ s : State, (s.run = .running → s.pauseToggle.run = .paused) ∧ (s.run = .paused → s.pauseToggle.run = .running) ∧
    (s.run = .halted → s.pauseToggle.run = .halted) ∧ s.quit.run = .halted ∧
    Frame { run := true } s s.pauseToggle ∧ Frame { run := true } s s.quit) ∧
  (∀ (s t : State) (e : Event), s.run = .halted → e.apply s = .next t →
    t.run = .halted ∨ ∃ image, e = .act (.reset image))

/-! ## Reset and the host -/

/-- R231: every field after reset (stack depth, glyph address, uncovered memory, I and FAULT: decisions D4, D12, D13 and D14,
entry 5; glyph bytes: R55, from general knowledge, entry 5; `draws` and `reports` are the model's
own, entries 2 and 1, and are left out). -/
def Obligations.ResetStateValues : Prop :=
  (∀ r, State.reset.getV r = 0x00) ∧ State.reset.i = 0x0000 ∧ State.reset.pc = 0x0200 ∧ State.reset.sp.val = 0 ∧
  (∀ k (h : k < 16), State.reset.stack[k]'h = 0x0000) ∧ State.reset.dt = 0x00 ∧ State.reset.st = 0x00 ∧
  (∀ px < 64, ∀ py < 32, State.reset.fb.pixel px py = false) ∧ (∀ k, State.reset.keyDown k = false) ∧
  State.reset.run = .running ∧ State.reset.fault = .none ∧
  (∀ a < 4096, a < 0x050 ∨ 0x0A0 ≤ a → State.reset.memRead a = 0x00) ∧
  (∀ j (h : j < 80), State.reset.memRead (0x050 + j) = fontTable[j]'h)

/-- R230 and R233 (decisions D13, D14): an image of at most 3584 bytes is accepted: MEM[0x200 + j] holds byte j, every
other byte of memory and every other field is as after reset. That the event history is empty after a load is the model's
choice (entry 7); the draw counter is left free here, since by entry 7 it goes on. -/
def Obligations.AcceptedLoadCopiesTheImage : Prop :=
  ∀ (s : State) (image : List Byte), image.length ≤ 3584 →
    (s.load image).2 = .ok ∧
    (∀ j (h : j < image.length), (s.load image).1.memRead (0x200 + j) = image[j]) ∧
    (∀ a < 4096, a < 0x200 ∨ 0x200 + image.length ≤ a → (s.load image).1.memRead a = State.reset.memRead a) ∧
    Frame { mem := blockAddrs 0x200 image.length, draws := true } State.reset (s.load image).1

/-- R233 and R234 (decision D22): a longer or unreadable image leaves the reset state with RUN = Halted and no image byte
copied, and no step executes. That the event history is empty after it is the model's choice (entry 7); the draw counter
is left free here, since by entry 7 it goes on. -/
def Obligations.FailedLoadHaltsTheResetState : Prop :=
  ∀ (s : State) (image : List Byte),
    (3585 ≤ image.length → (s.load image).2 = .programTooLarge ∧ (s.load image).1.run = .halted ∧
      Frame { run := true, draws := true } State.reset (s.load image).1 ∧
      step (s.load image).1 = .next (s.load image).1) ∧
    (s.loadUnreadable.2 = .programNotFound ∧ s.loadUnreadable.1.run = .halted ∧
      Frame { run := true, draws := true } State.reset s.loadUnreadable.1)

/-- R186: a tick takes one off each timer that is not zero, in any run state, and changes nothing else; a host that does
not tick outside Running (decision D26, OPEN) offers it only there. -/
def Obligations.TickCountsEachTimerDown : Prop :=
  ∀ s : State,
    s.tick.dt.toNat = s.dt.toNat - 1 ∧ s.tick.st.toNat = s.st.toNat - 1 ∧ Frame { dt := true, st := true } s s.tick ∧
    (HostAction.offered .tick s = true ↔ s.run = .running ∨ Config.hostTicksWhenNotRunning = true)

/-- R33 and R188: the host sets the level of one key; a step never changes a key. -/
def Obligations.OnlyTheHostChangesKeys : Prop :=
  (∀ (s : State) (k j : Fin 16) (down : Bool),
    (State.setKey k down s).keyDown j = (if j = k then down else s.keyDown j) ∧
    Frame { key := true } s (State.setKey k down s)) ∧
  (∀ s t : State, step s = .next t → t.key = s.key)
end

