-- ==== Sys2Proof/Laws/Decode.lean ====
section
/-! SUPPORT. Words written out digit by digit (30_encoding.md R71): their values, and what each field extractor reads from
them; and that every instruction is well formed. -/

namespace Sys2Proof

variable (c : BitVec 4) (x y n : Fin 16) (nn : Byte) (nnn : Addr12)

/-- A concatenation as a number: the upper part is above the lower one's width (R8). -/
theorem toNat_concat {k m : Nat} (a : BitVec k) (b : BitVec m) : (a ++ b).toNat = a.toNat * 2 ^ m + b.toNat := by
  rw [BitVec.toNat_append, Nat.shiftLeft_eq, ← Nat.shiftLeft_eq, ← Nat.shiftLeft_add_eq_or_of_lt b.isLt, Nat.shiftLeft_eq]

@[simp] theorem toNat_nibbleBits : (nibbleBits x).toNat = x.val := rfl

/-- The value of `c : NNN`. -/
theorem toNat_wordNNN : (wordNNN c nnn).toNat = c.toNat * 4096 + nnn.toNat :=
  toNat_concat c nnn

/-- The value of `c : X : NN`. -/
theorem toNat_wordXNN : (wordXNN c x nn).toNat = c.toNat * 4096 + x.val * 256 + nn.toNat := by
  have h := toNat_concat (c ++ nibbleBits x) nn
  rw [toNat_concat c (nibbleBits x), toNat_nibbleBits] at h
  refine h.trans ?_
  omega

/-- The value of `c : X : Y : N`. -/
theorem toNat_wordXYN : (wordXYN c x y n).toNat = c.toNat * 4096 + x.val * 256 + y.val * 16 + n.val := by
  have h := toNat_concat (c ++ nibbleBits x ++ nibbleBits y) (nibbleBits n)
  rw [toNat_concat (c ++ nibbleBits x) (nibbleBits y), toNat_concat c (nibbleBits x)] at h
  simp only [toNat_nibbleBits] at h
  refine h.trans ?_
  omega

section Fields

variable (op : Word)

theorem toNat_fieldClass : (fieldClass op).toNat = op.toNat / 4096 := by
  have := op.isLt
  simp only [fieldClass, BitVec.extractLsb'_toNat, Nat.shiftRight_eq_div_pow]
  omega

theorem val_fieldX : (fieldX op).val = op.toNat / 256 % 16 := by
  have h : (fieldX op).val = (op.extractLsb' 8 4).toNat := rfl
  rw [h, BitVec.extractLsb'_toNat, Nat.shiftRight_eq_div_pow]

theorem val_fieldY : (fieldY op).val = op.toNat / 16 % 16 := by
  have h : (fieldY op).val = (op.extractLsb' 4 4).toNat := rfl
  rw [h, BitVec.extractLsb'_toNat, Nat.shiftRight_eq_div_pow]

theorem val_fieldN : (fieldN op).val = op.toNat % 16 := by
  have h : (fieldN op).val = (op.extractLsb' 0 4).toNat := rfl
  rw [h, BitVec.extractLsb'_toNat, Nat.shiftRight_eq_div_pow]
  omega

theorem toNat_fieldNN : (fieldNN op).toNat = op.toNat % 256 := by
  simp only [fieldNN, BitVec.extractLsb'_toNat, Nat.shiftRight_eq_div_pow]
  omega

theorem toNat_fieldNNN : (fieldNNN op).toNat = op.toNat % 4096 := by
  simp only [fieldNNN, BitVec.extractLsb'_toNat, Nat.shiftRight_eq_div_pow]
  omega

end Fields

section Shapes

@[simp] theorem fieldClass_wordNNN : fieldClass (wordNNN c nnn) = c := by
  apply BitVec.eq_of_toNat_eq
  have := nnn.isLt
  rw [toNat_fieldClass, toNat_wordNNN]
  omega

@[simp] theorem fieldNNN_wordNNN : fieldNNN (wordNNN c nnn) = nnn := by
  apply BitVec.eq_of_toNat_eq
  have := nnn.isLt
  rw [toNat_fieldNNN, toNat_wordNNN]
  omega

@[simp] theorem fieldClass_wordXNN : fieldClass (wordXNN c x nn) = c := by
  apply BitVec.eq_of_toNat_eq
  have := nn.isLt
  have := x.isLt
  rw [toNat_fieldClass, toNat_wordXNN]
  omega

@[simp] theorem fieldX_wordXNN : fieldX (wordXNN c x nn) = x := by
  apply Fin.ext
  have := nn.isLt
  have := x.isLt
  rw [val_fieldX, toNat_wordXNN]
  omega

@[simp] theorem fieldNN_wordXNN : fieldNN (wordXNN c x nn) = nn := by
  apply BitVec.eq_of_toNat_eq
  have := nn.isLt
  rw [toNat_fieldNN, toNat_wordXNN]
  omega

@[simp] theorem fieldClass_wordXYN : fieldClass (wordXYN c x y n) = c := by
  apply BitVec.eq_of_toNat_eq
  have := x.isLt
  have := y.isLt
  have := n.isLt
  rw [toNat_fieldClass, toNat_wordXYN]
  omega

@[simp] theorem fieldX_wordXYN : fieldX (wordXYN c x y n) = x := by
  apply Fin.ext
  have := x.isLt
  have := y.isLt
  have := n.isLt
  rw [val_fieldX, toNat_wordXYN]
  omega

@[simp] theorem fieldY_wordXYN : fieldY (wordXYN c x y n) = y := by
  apply Fin.ext
  have := y.isLt
  have := n.isLt
  rw [val_fieldY, toNat_wordXYN]
  omega

@[simp] theorem fieldN_wordXYN : fieldN (wordXYN c x y n) = n := by
  apply Fin.ext
  have := n.isLt
  rw [val_fieldN, toNat_wordXYN]
  omega

end Shapes

/-- The value of a word of two bytes (R52). -/
theorem toNat_wordOfBytes (hi lo : Byte) : (wordOfBytes hi lo).toNat = 256 * hi.toNat + lo.toNat := by
  have h := toNat_concat hi lo
  refine h.trans ?_
  omega

@[simp] theorem highByte_wordOfBytes (hi lo : Byte) : highByte (wordOfBytes hi lo) = hi := by
  apply BitVec.eq_of_toNat_eq
  have := hi.isLt
  have := lo.isLt
  simp only [highByte, BitVec.extractLsb'_toNat, Nat.shiftRight_eq_div_pow, toNat_wordOfBytes]
  omega

@[simp] theorem lowByte_wordOfBytes (hi lo : Byte) : lowByte (wordOfBytes hi lo) = lo := by
  apply BitVec.eq_of_toNat_eq
  have := lo.isLt
  simp only [lowByte, BitVec.extractLsb'_toNat, Nat.shiftRight_eq_div_pow, toNat_wordOfBytes]
  omega

/-- A word is the concatenation of its two bytes (R52). -/
theorem wordOfBytes_split (op : Word) : wordOfBytes (highByte op) (lowByte op) = op := by
  apply BitVec.eq_of_toNat_eq
  have h := toNat_concat (highByte op) (lowByte op)
  have := op.isLt
  refine h.trans ?_
  simp only [highByte, lowByte, BitVec.extractLsb'_toNat, Nat.shiftRight_eq_div_pow]
  omega

/-- A bitwise and works on the digits below and above position k separately. -/
theorem and_split {k a b m n : Nat} (hb : b < 2 ^ k) (hn : n < 2 ^ k) :
    (2 ^ k * a + b) &&& (2 ^ k * m + n) = 2 ^ k * (a &&& m) + (b &&& n) := by
  apply Nat.eq_of_testBit_eq
  intro j
  have hbn : b &&& n < 2 ^ k := Nat.and_lt_two_pow _ hn
  simp only [Nat.testBit_and, Nat.testBit_two_pow_mul_add _ hb, Nat.testBit_two_pow_mul_add _ hn,
    Nat.testBit_two_pow_mul_add _ hbn]
  split <;> rfl

section Masks

variable (op : Word)

/-- Mask 0xF000 leaves the class digit (R73). -/
theorem toNat_and_F000 : (op &&& (0xF000 : Word)).toNat = op.toNat / 4096 * 4096 := by
  have h := op.isLt
  have h1 : op.toNat = 2 ^ 12 * (op.toNat / 4096) + op.toNat % 4096 := by omega
  have h2 : op.toNat / 4096 &&& 15 = op.toNat / 4096 % 16 := Nat.and_two_pow_sub_one_eq_mod _ 4
  rw [BitVec.toNat_and, h1, show (0xF000 : Word).toNat = 2 ^ 12 * 15 + 0 from rfl, and_split (by omega) (by decide), h2,
    Nat.and_zero]
  omega

/-- Mask 0xF00F leaves the class digit and N (R73). -/
theorem toNat_and_F00F : (op &&& (0xF00F : Word)).toNat = op.toNat / 4096 * 4096 + op.toNat % 16 := by
  have h := op.isLt
  have h1 : op.toNat = 2 ^ 12 * (op.toNat / 4096) + op.toNat % 4096 := by omega
  have h2 : op.toNat / 4096 &&& 15 = op.toNat / 4096 % 16 := Nat.and_two_pow_sub_one_eq_mod _ 4
  have h3 : op.toNat % 4096 &&& 15 = op.toNat % 4096 % 16 := Nat.and_two_pow_sub_one_eq_mod _ 4
  rw [BitVec.toNat_and, h1, show (0xF00F : Word).toNat = 2 ^ 12 * 15 + 15 from rfl, and_split (by omega) (by decide), h2, h3]
  omega

/-- Mask 0xF0FF leaves the class digit and NN (R73). -/
theorem toNat_and_F0FF : (op &&& (0xF0FF : Word)).toNat = op.toNat / 4096 * 4096 + op.toNat % 256 := by
  have h := op.isLt
  have h1 : op.toNat = 2 ^ 12 * (op.toNat / 4096) + op.toNat % 4096 := by omega
  have h2 : op.toNat / 4096 &&& 15 = op.toNat / 4096 % 16 := Nat.and_two_pow_sub_one_eq_mod _ 4
  have h3 : op.toNat % 4096 &&& 255 = op.toNat % 4096 % 256 := Nat.and_two_pow_sub_one_eq_mod _ 8
  rw [BitVec.toNat_and, h1, show (0xF0FF : Word).toNat = 2 ^ 12 * 15 + 255 from rfl, and_split (by omega) (by decide), h2, h3]
  omega

/-- A row with mask 0xF000 matches the words of its class. -/
theorem matches_F000 (m : String) (c : Nat) (hc : c < 16) :
    OpcodeRow.matches ⟨m, 0xF000, BitVec.ofNat 16 (c * 4096)⟩ op = true ↔ (fieldClass op).toNat = c := by
  simp only [OpcodeRow.matches, beq_iff_eq, ← BitVec.toNat_inj, toNat_and_F000, BitVec.toNat_ofNat, toNat_fieldClass]
  omega

/-- A row with mask 0xF00F matches the words of its class and N. -/
theorem matches_F00F (m : String) (c n : Nat) (hc : c < 16) (hn : n < 16) :
    OpcodeRow.matches ⟨m, 0xF00F, BitVec.ofNat 16 (c * 4096 + n)⟩ op = true ↔
      (fieldClass op).toNat = c ∧ (fieldN op).val = n := by
  simp only [OpcodeRow.matches, beq_iff_eq, ← BitVec.toNat_inj, toNat_and_F00F, BitVec.toNat_ofNat, toNat_fieldClass,
    val_fieldN]
  omega

/-- A row with mask 0xF0FF matches the words of its class and NN. -/
theorem matches_F0FF (m : String) (c nn : Nat) (hc : c < 16) (hn : nn < 256) :
    OpcodeRow.matches ⟨m, 0xF0FF, BitVec.ofNat 16 (c * 4096 + nn)⟩ op = true ↔
      (fieldClass op).toNat = c ∧ (fieldNN op).toNat = nn := by
  simp only [OpcodeRow.matches, beq_iff_eq, ← BitVec.toNat_inj, toNat_and_F0FF, BitVec.toNat_ofNat, toNat_fieldClass,
    toNat_fieldNN]
  omega

/-- A row with mask 0xFFFF matches its own word. -/
theorem matches_FFFF (m : String) (w : Word) : OpcodeRow.matches ⟨m, 0xFFFF, w⟩ op = true ↔ op = w := by
  have : op &&& (0xFFFF : Word) = op := BitVec.and_allOnes
  simp only [OpcodeRow.matches, this, beq_iff_eq]

end Masks

/-- Every operand of an instruction is in range: the types of `Instr` hold no other value (R72). -/
theorem Instr.wellFormed_all (i : Instr) : i.wellFormed = true := by
  have hb (b : Byte) : b.toNat < 256 := b.isLt
  have ha (a : Addr12) : a.toNat < 4096 := a.isLt
  cases i <;> simp [wellFormed, operands, Operand.inRange, hb, ha]

end Sys2Proof
end

