-- ==== Sys2Proof/Laws/Memory.lean ====
section
/-! SUPPORT. The laws of memory (20_memory.md R58): a read after a write, for every list; the canonical form, and that a
write keeps it. -/

namespace Sys2Proof.Machine.Memory

/-- Removing the entry of a: a then reads as reset, every other address as before. -/
theorem read_remove (m : Memory) (a c : Nat) :
    (m.remove a).read c = if c = a then resetByte a else m.read c := by
  induction m with
  | nil => by_cases h : c = a <;> simp [remove, read, h]
  | cons e m ih =>
    obtain ⟨k, b⟩ := e
    simp only [remove] at ih ⊢
    by_cases hk : k = a
    · subst hk
      by_cases hc : c = k <;> simp_all [read, eq_comm]
    · simp only [List.filter_cons, bne_iff_ne, ne_eq, hk, not_false_eq_true, if_true, read, ih]
      by_cases hc : c = a
      · simp [hc, hk]
      · simp [hc]

/-- No entry of a is left. -/
theorem remove_keys (m : Memory) (a : Nat) : ∀ e ∈ m.remove a, e.1 ≠ a := by
  intro e he
  simpa [remove] using (List.mem_filter.mp he).2

/-- Placing an entry for an address that has none. -/
theorem read_place (m : Memory) (a : Nat) (b : Byte) (h : ∀ e ∈ m, e.1 ≠ a) (c : Nat) :
    (place a b m).read c = if c = a then b else m.read c := by
  induction m with
  | nil =>
    by_cases hc : c = a
    · simp [place, read, hc]
    · simp [place, read, hc, Ne.symm hc]
  | cons e m ih =>
    obtain ⟨k, d⟩ := e
    have hk : k ≠ a := h (k, d) (by simp)
    have ih := ih (fun e he => h e (by simp [he]))
    unfold place
    by_cases hlt : a < k
    · rw [if_pos hlt, read]
      by_cases hc : c = a
      · simp [hc]
      · simp [hc, Ne.symm hc]
    · rw [if_neg hlt, read, read, ih]
      by_cases hc : c = a
      · simp [hc, hk]
      · simp [hc]

/-- A read after a write: the byte written at its address, the old byte elsewhere (R58). It holds for every list. -/
@[simp] theorem read_write (m : Memory) (a c : Nat) (b : Byte) :
    (m.write a b).read c = if c = a then b else m.read c := by
  unfold write
  by_cases hb : b = resetByte a
  · simp [hb, read_remove]
  · rw [if_neg hb, read_place _ _ _ (m.remove_keys a), read_remove]
    by_cases hc : c = a <;> simp [hc]

/-- The canonical form from lo, one entry at a time. -/
theorem wfFrom_cons (lo k : Nat) (b : Byte) (m : Memory) :
    wfFrom lo ((k, b) :: m) = true ↔ lo ≤ k ∧ k < Config.memSize ∧ b ≠ resetByte k ∧ wfFrom (k + 1) m = true := by
  simp [wfFrom, and_assoc]

/-- A smaller lower bound asks for less. -/
theorem wfFrom_mono {lo lo' : Nat} (h : lo' ≤ lo) {m : Memory} (hm : wfFrom lo m = true) : wfFrom lo' m = true := by
  cases m with
  | nil => rfl
  | cons e m =>
    obtain ⟨k, b⟩ := e
    rw [wfFrom_cons] at hm ⊢
    exact ⟨h.trans hm.1, hm.2⟩

/-- Every address of a list canonical from lo is at least lo. -/
theorem wfFrom_keys {lo : Nat} {m : Memory} (hm : wfFrom lo m = true) : ∀ e ∈ m, lo ≤ e.1 := by
  induction m generalizing lo with
  | nil => simp
  | cons e m ih =>
    obtain ⟨k, b⟩ := e
    rw [wfFrom_cons] at hm
    intro e he
    rcases List.mem_cons.mp he with rfl | he
    · exact hm.1
    · have := ih hm.2.2.2 e he
      omega

/-- Below the bound a canonical list reads as reset. -/
theorem read_below {lo : Nat} {m : Memory} (hm : wfFrom lo m = true) {a : Nat} (ha : a < lo) : m.read a = resetByte a := by
  induction m generalizing lo with
  | nil => rfl
  | cons e m ih =>
    obtain ⟨k, b⟩ := e
    rw [wfFrom_cons] at hm
    rw [read, if_neg (by omega), ih hm.2.2.2 (by omega)]

theorem wfFrom_remove {lo : Nat} {m : Memory} (hm : wfFrom lo m = true) (a : Nat) : wfFrom lo (m.remove a) = true := by
  induction m generalizing lo with
  | nil => rfl
  | cons e m ih =>
    obtain ⟨k, b⟩ := e
    rw [wfFrom_cons] at hm
    have ih := ih hm.2.2.2
    by_cases hk : k = a
    · have : remove ((k, b) :: m) a = remove m a := by simp [remove, hk]
      rw [this]
      exact wfFrom_mono (by omega) ih
    · have : remove ((k, b) :: m) a = (k, b) :: remove m a := by simp [remove, hk]
      rw [this, wfFrom_cons]
      exact ⟨hm.1, hm.2.1, hm.2.2.1, ih⟩

theorem wfFrom_place {lo : Nat} {m : Memory} (hm : wfFrom lo m = true) {a : Nat} {b : Byte} (hlo : lo ≤ a)
    (ha : a < Config.memSize) (hb : b ≠ resetByte a) (hne : ∀ e ∈ m, e.1 ≠ a) : wfFrom lo (place a b m) = true := by
  induction m generalizing lo with
  | nil => simp [place, hlo, ha, hb, wfFrom]
  | cons e m ih =>
    obtain ⟨k, d⟩ := e
    have hk : k ≠ a := hne (k, d) (by simp)
    rw [wfFrom_cons] at hm
    unfold place
    by_cases hlt : a < k
    · rw [if_pos hlt, wfFrom_cons, wfFrom_cons]
      exact ⟨hlo, ha, hb, by omega, hm.2⟩
    · rw [if_neg hlt, wfFrom_cons]
      exact ⟨hm.1, hm.2.1, hm.2.2.1, ih hm.2.2.2 (by omega) (fun e he => hne e (by simp [he]))⟩

/-- A write below MEM_SIZE keeps the canonical form. -/
theorem wf_write {m : Memory} (hm : m.wf = true) {a : Nat} (ha : a < Config.memSize) (b : Byte) : (m.write a b).wf = true := by
  unfold write wf
  by_cases hb : b = resetByte a
  · rw [if_pos hb]
    exact wfFrom_remove hm a
  · rw [if_neg hb]
    exact wfFrom_place (wfFrom_remove hm a) (Nat.zero_le _) ha hb (m.remove_keys a)

/-- The empty list is canonical. -/
@[simp] theorem wf_nil : Memory.wf [] = true := rfl

end Sys2Proof.Machine.Memory
end

