-- ==== Sys2Proof/Laws/State.lean ====
section
/-! SUPPORT. One lemma per field per update of the state, each true by definition, so that no proof unfolds a record
update; then the same for the three accessors V[r], MEM[a] and KEY[k]. -/

namespace Sys2Proof.Machine.State

@[simp] theorem setV_v (s : State) (q : Reg) (b : Byte) : (s.setV q b).v = s.v.set q.val b q.isLt := rfl
@[simp] theorem setV_i (s : State) (q : Reg) (b : Byte) : (s.setV q b).i = s.i := rfl
@[simp] theorem setV_pc (s : State) (q : Reg) (b : Byte) : (s.setV q b).pc = s.pc := rfl
@[simp] theorem setV_sp (s : State) (q : Reg) (b : Byte) : (s.setV q b).sp = s.sp := rfl
@[simp] theorem setV_stack (s : State) (q : Reg) (b : Byte) : (s.setV q b).stack = s.stack := rfl
@[simp] theorem setV_dt (s : State) (q : Reg) (b : Byte) : (s.setV q b).dt = s.dt := rfl
@[simp] theorem setV_st (s : State) (q : Reg) (b : Byte) : (s.setV q b).st = s.st := rfl
@[simp] theorem setV_mem (s : State) (q : Reg) (b : Byte) : (s.setV q b).mem = s.mem := rfl
@[simp] theorem setV_fb (s : State) (q : Reg) (b : Byte) : (s.setV q b).fb = s.fb := rfl
@[simp] theorem setV_key (s : State) (q : Reg) (b : Byte) : (s.setV q b).key = s.key := rfl
@[simp] theorem setV_run (s : State) (q : Reg) (b : Byte) : (s.setV q b).run = s.run := rfl
@[simp] theorem setV_fault (s : State) (q : Reg) (b : Byte) : (s.setV q b).fault = s.fault := rfl
@[simp] theorem setV_draws (s : State) (q : Reg) (b : Byte) : (s.setV q b).draws = s.draws := rfl
@[simp] theorem setV_reports (s : State) (q : Reg) (b : Byte) : (s.setV q b).reports = s.reports := rfl
@[simp] theorem setV_memRead (s : State) (q : Reg) (b : Byte) (a : Nat) : (s.setV q b).memRead a = s.memRead a := rfl
@[simp] theorem setV_keyDown (s : State) (q : Reg) (b : Byte) (k : Fin Config.nkeys) : (s.setV q b).keyDown k = s.keyDown k := rfl

@[simp] theorem setI_v (s : State) (w : Word) : (s.setI w).v = s.v := rfl
@[simp] theorem setI_i (s : State) (w : Word) : (s.setI w).i = w := rfl
@[simp] theorem setI_pc (s : State) (w : Word) : (s.setI w).pc = s.pc := rfl
@[simp] theorem setI_sp (s : State) (w : Word) : (s.setI w).sp = s.sp := rfl
@[simp] theorem setI_stack (s : State) (w : Word) : (s.setI w).stack = s.stack := rfl
@[simp] theorem setI_dt (s : State) (w : Word) : (s.setI w).dt = s.dt := rfl
@[simp] theorem setI_st (s : State) (w : Word) : (s.setI w).st = s.st := rfl
@[simp] theorem setI_mem (s : State) (w : Word) : (s.setI w).mem = s.mem := rfl
@[simp] theorem setI_fb (s : State) (w : Word) : (s.setI w).fb = s.fb := rfl
@[simp] theorem setI_key (s : State) (w : Word) : (s.setI w).key = s.key := rfl
@[simp] theorem setI_run (s : State) (w : Word) : (s.setI w).run = s.run := rfl
@[simp] theorem setI_fault (s : State) (w : Word) : (s.setI w).fault = s.fault := rfl
@[simp] theorem setI_draws (s : State) (w : Word) : (s.setI w).draws = s.draws := rfl
@[simp] theorem setI_reports (s : State) (w : Word) : (s.setI w).reports = s.reports := rfl
@[simp] theorem setI_getV (s : State) (w : Word) (r : Reg) : (s.setI w).getV r = s.getV r := rfl
@[simp] theorem setI_memRead (s : State) (w : Word) (a : Nat) : (s.setI w).memRead a = s.memRead a := rfl
@[simp] theorem setI_keyDown (s : State) (w : Word) (k : Fin Config.nkeys) : (s.setI w).keyDown k = s.keyDown k := rfl

@[simp] theorem setPc_v (s : State) (w : Word) : (s.setPc w).v = s.v := rfl
@[simp] theorem setPc_i (s : State) (w : Word) : (s.setPc w).i = s.i := rfl
@[simp] theorem setPc_pc (s : State) (w : Word) : (s.setPc w).pc = w := rfl
@[simp] theorem setPc_sp (s : State) (w : Word) : (s.setPc w).sp = s.sp := rfl
@[simp] theorem setPc_stack (s : State) (w : Word) : (s.setPc w).stack = s.stack := rfl
@[simp] theorem setPc_dt (s : State) (w : Word) : (s.setPc w).dt = s.dt := rfl
@[simp] theorem setPc_st (s : State) (w : Word) : (s.setPc w).st = s.st := rfl
@[simp] theorem setPc_mem (s : State) (w : Word) : (s.setPc w).mem = s.mem := rfl
@[simp] theorem setPc_fb (s : State) (w : Word) : (s.setPc w).fb = s.fb := rfl
@[simp] theorem setPc_key (s : State) (w : Word) : (s.setPc w).key = s.key := rfl
@[simp] theorem setPc_run (s : State) (w : Word) : (s.setPc w).run = s.run := rfl
@[simp] theorem setPc_fault (s : State) (w : Word) : (s.setPc w).fault = s.fault := rfl
@[simp] theorem setPc_draws (s : State) (w : Word) : (s.setPc w).draws = s.draws := rfl
@[simp] theorem setPc_reports (s : State) (w : Word) : (s.setPc w).reports = s.reports := rfl
@[simp] theorem setPc_getV (s : State) (w : Word) (r : Reg) : (s.setPc w).getV r = s.getV r := rfl
@[simp] theorem setPc_memRead (s : State) (w : Word) (a : Nat) : (s.setPc w).memRead a = s.memRead a := rfl
@[simp] theorem setPc_keyDown (s : State) (w : Word) (k : Fin Config.nkeys) : (s.setPc w).keyDown k = s.keyDown k := rfl

@[simp] theorem setDt_v (s : State) (b : Byte) : (s.setDt b).v = s.v := rfl
@[simp] theorem setDt_i (s : State) (b : Byte) : (s.setDt b).i = s.i := rfl
@[simp] theorem setDt_pc (s : State) (b : Byte) : (s.setDt b).pc = s.pc := rfl
@[simp] theorem setDt_sp (s : State) (b : Byte) : (s.setDt b).sp = s.sp := rfl
@[simp] theorem setDt_stack (s : State) (b : Byte) : (s.setDt b).stack = s.stack := rfl
@[simp] theorem setDt_dt (s : State) (b : Byte) : (s.setDt b).dt = b := rfl
@[simp] theorem setDt_st (s : State) (b : Byte) : (s.setDt b).st = s.st := rfl
@[simp] theorem setDt_mem (s : State) (b : Byte) : (s.setDt b).mem = s.mem := rfl
@[simp] theorem setDt_fb (s : State) (b : Byte) : (s.setDt b).fb = s.fb := rfl
@[simp] theorem setDt_key (s : State) (b : Byte) : (s.setDt b).key = s.key := rfl
@[simp] theorem setDt_run (s : State) (b : Byte) : (s.setDt b).run = s.run := rfl
@[simp] theorem setDt_fault (s : State) (b : Byte) : (s.setDt b).fault = s.fault := rfl
@[simp] theorem setDt_draws (s : State) (b : Byte) : (s.setDt b).draws = s.draws := rfl
@[simp] theorem setDt_reports (s : State) (b : Byte) : (s.setDt b).reports = s.reports := rfl
@[simp] theorem setDt_getV (s : State) (b : Byte) (r : Reg) : (s.setDt b).getV r = s.getV r := rfl
@[simp] theorem setDt_memRead (s : State) (b : Byte) (a : Nat) : (s.setDt b).memRead a = s.memRead a := rfl
@[simp] theorem setDt_keyDown (s : State) (b : Byte) (k : Fin Config.nkeys) : (s.setDt b).keyDown k = s.keyDown k := rfl

@[simp] theorem setSt_v (s : State) (b : Byte) : (s.setSt b).v = s.v := rfl
@[simp] theorem setSt_i (s : State) (b : Byte) : (s.setSt b).i = s.i := rfl
@[simp] theorem setSt_pc (s : State) (b : Byte) : (s.setSt b).pc = s.pc := rfl
@[simp] theorem setSt_sp (s : State) (b : Byte) : (s.setSt b).sp = s.sp := rfl
@[simp] theorem setSt_stack (s : State) (b : Byte) : (s.setSt b).stack = s.stack := rfl
@[simp] theorem setSt_dt (s : State) (b : Byte) : (s.setSt b).dt = s.dt := rfl
@[simp] theorem setSt_st (s : State) (b : Byte) : (s.setSt b).st = b := rfl
@[simp] theorem setSt_mem (s : State) (b : Byte) : (s.setSt b).mem = s.mem := rfl
@[simp] theorem setSt_fb (s : State) (b : Byte) : (s.setSt b).fb = s.fb := rfl
@[simp] theorem setSt_key (s : State) (b : Byte) : (s.setSt b).key = s.key := rfl
@[simp] theorem setSt_run (s : State) (b : Byte) : (s.setSt b).run = s.run := rfl
@[simp] theorem setSt_fault (s : State) (b : Byte) : (s.setSt b).fault = s.fault := rfl
@[simp] theorem setSt_draws (s : State) (b : Byte) : (s.setSt b).draws = s.draws := rfl
@[simp] theorem setSt_reports (s : State) (b : Byte) : (s.setSt b).reports = s.reports := rfl
@[simp] theorem setSt_getV (s : State) (b : Byte) (r : Reg) : (s.setSt b).getV r = s.getV r := rfl
@[simp] theorem setSt_memRead (s : State) (b : Byte) (a : Nat) : (s.setSt b).memRead a = s.memRead a := rfl
@[simp] theorem setSt_keyDown (s : State) (b : Byte) (k : Fin Config.nkeys) : (s.setSt b).keyDown k = s.keyDown k := rfl

@[simp] theorem setFb_v (s : State) (fb : FrameBuffer) : (s.setFb fb).v = s.v := rfl
@[simp] theorem setFb_i (s : State) (fb : FrameBuffer) : (s.setFb fb).i = s.i := rfl
@[simp] theorem setFb_pc (s : State) (fb : FrameBuffer) : (s.setFb fb).pc = s.pc := rfl
@[simp] theorem setFb_sp (s : State) (fb : FrameBuffer) : (s.setFb fb).sp = s.sp := rfl
@[simp] theorem setFb_stack (s : State) (fb : FrameBuffer) : (s.setFb fb).stack = s.stack := rfl
@[simp] theorem setFb_dt (s : State) (fb : FrameBuffer) : (s.setFb fb).dt = s.dt := rfl
@[simp] theorem setFb_st (s : State) (fb : FrameBuffer) : (s.setFb fb).st = s.st := rfl
@[simp] theorem setFb_mem (s : State) (fb : FrameBuffer) : (s.setFb fb).mem = s.mem := rfl
@[simp] theorem setFb_fb (s : State) (fb : FrameBuffer) : (s.setFb fb).fb = fb := rfl
@[simp] theorem setFb_key (s : State) (fb : FrameBuffer) : (s.setFb fb).key = s.key := rfl
@[simp] theorem setFb_run (s : State) (fb : FrameBuffer) : (s.setFb fb).run = s.run := rfl
@[simp] theorem setFb_fault (s : State) (fb : FrameBuffer) : (s.setFb fb).fault = s.fault := rfl
@[simp] theorem setFb_draws (s : State) (fb : FrameBuffer) : (s.setFb fb).draws = s.draws := rfl
@[simp] theorem setFb_reports (s : State) (fb : FrameBuffer) : (s.setFb fb).reports = s.reports := rfl
@[simp] theorem setFb_getV (s : State) (fb : FrameBuffer) (r : Reg) : (s.setFb fb).getV r = s.getV r := rfl
@[simp] theorem setFb_memRead (s : State) (fb : FrameBuffer) (a : Nat) : (s.setFb fb).memRead a = s.memRead a := rfl
@[simp] theorem setFb_keyDown (s : State) (fb : FrameBuffer) (k : Fin Config.nkeys) : (s.setFb fb).keyDown k = s.keyDown k := rfl

@[simp] theorem setRun_v (s : State) (q : RunState) : (s.setRun q).v = s.v := rfl
@[simp] theorem setRun_i (s : State) (q : RunState) : (s.setRun q).i = s.i := rfl
@[simp] theorem setRun_pc (s : State) (q : RunState) : (s.setRun q).pc = s.pc := rfl
@[simp] theorem setRun_sp (s : State) (q : RunState) : (s.setRun q).sp = s.sp := rfl
@[simp] theorem setRun_stack (s : State) (q : RunState) : (s.setRun q).stack = s.stack := rfl
@[simp] theorem setRun_dt (s : State) (q : RunState) : (s.setRun q).dt = s.dt := rfl
@[simp] theorem setRun_st (s : State) (q : RunState) : (s.setRun q).st = s.st := rfl
@[simp] theorem setRun_mem (s : State) (q : RunState) : (s.setRun q).mem = s.mem := rfl
@[simp] theorem setRun_fb (s : State) (q : RunState) : (s.setRun q).fb = s.fb := rfl
@[simp] theorem setRun_key (s : State) (q : RunState) : (s.setRun q).key = s.key := rfl
@[simp] theorem setRun_run (s : State) (q : RunState) : (s.setRun q).run = q := rfl
@[simp] theorem setRun_fault (s : State) (q : RunState) : (s.setRun q).fault = s.fault := rfl
@[simp] theorem setRun_draws (s : State) (q : RunState) : (s.setRun q).draws = s.draws := rfl
@[simp] theorem setRun_reports (s : State) (q : RunState) : (s.setRun q).reports = s.reports := rfl
@[simp] theorem setRun_getV (s : State) (q : RunState) (r : Reg) : (s.setRun q).getV r = s.getV r := rfl
@[simp] theorem setRun_memRead (s : State) (q : RunState) (a : Nat) : (s.setRun q).memRead a = s.memRead a := rfl
@[simp] theorem setRun_keyDown (s : State) (q : RunState) (k : Fin Config.nkeys) : (s.setRun q).keyDown k = s.keyDown k := rfl

@[simp] theorem memWrite_v (s : State) (c : Nat) (b : Byte) : (s.memWrite c b).v = s.v := rfl
@[simp] theorem memWrite_i (s : State) (c : Nat) (b : Byte) : (s.memWrite c b).i = s.i := rfl
@[simp] theorem memWrite_pc (s : State) (c : Nat) (b : Byte) : (s.memWrite c b).pc = s.pc := rfl
@[simp] theorem memWrite_sp (s : State) (c : Nat) (b : Byte) : (s.memWrite c b).sp = s.sp := rfl
@[simp] theorem memWrite_stack (s : State) (c : Nat) (b : Byte) : (s.memWrite c b).stack = s.stack := rfl
@[simp] theorem memWrite_dt (s : State) (c : Nat) (b : Byte) : (s.memWrite c b).dt = s.dt := rfl
@[simp] theorem memWrite_st (s : State) (c : Nat) (b : Byte) : (s.memWrite c b).st = s.st := rfl
@[simp] theorem memWrite_mem (s : State) (c : Nat) (b : Byte) : (s.memWrite c b).mem = s.mem.write (ea c) b := rfl
@[simp] theorem memWrite_fb (s : State) (c : Nat) (b : Byte) : (s.memWrite c b).fb = s.fb := rfl
@[simp] theorem memWrite_key (s : State) (c : Nat) (b : Byte) : (s.memWrite c b).key = s.key := rfl
@[simp] theorem memWrite_run (s : State) (c : Nat) (b : Byte) : (s.memWrite c b).run = s.run := rfl
@[simp] theorem memWrite_fault (s : State) (c : Nat) (b : Byte) : (s.memWrite c b).fault = s.fault := rfl
@[simp] theorem memWrite_draws (s : State) (c : Nat) (b : Byte) : (s.memWrite c b).draws = s.draws := rfl
@[simp] theorem memWrite_reports (s : State) (c : Nat) (b : Byte) : (s.memWrite c b).reports = s.reports := rfl
@[simp] theorem memWrite_getV (s : State) (c : Nat) (b : Byte) (r : Reg) : (s.memWrite c b).getV r = s.getV r := rfl
@[simp] theorem memWrite_keyDown (s : State) (c : Nat) (b : Byte) (k : Fin Config.nkeys) : (s.memWrite c b).keyDown k = s.keyDown k := rfl

@[simp] theorem advancePc_v (s : State) : (s.advancePc).v = s.v := rfl
@[simp] theorem advancePc_i (s : State) : (s.advancePc).i = s.i := rfl
@[simp] theorem advancePc_pc (s : State) : (s.advancePc).pc = s.pc + 2 := rfl
@[simp] theorem advancePc_sp (s : State) : (s.advancePc).sp = s.sp := rfl
@[simp] theorem advancePc_stack (s : State) : (s.advancePc).stack = s.stack := rfl
@[simp] theorem advancePc_dt (s : State) : (s.advancePc).dt = s.dt := rfl
@[simp] theorem advancePc_st (s : State) : (s.advancePc).st = s.st := rfl
@[simp] theorem advancePc_mem (s : State) : (s.advancePc).mem = s.mem := rfl
@[simp] theorem advancePc_fb (s : State) : (s.advancePc).fb = s.fb := rfl
@[simp] theorem advancePc_key (s : State) : (s.advancePc).key = s.key := rfl
@[simp] theorem advancePc_run (s : State) : (s.advancePc).run = s.run := rfl
@[simp] theorem advancePc_fault (s : State) : (s.advancePc).fault = s.fault := rfl
@[simp] theorem advancePc_draws (s : State) : (s.advancePc).draws = s.draws := rfl
@[simp] theorem advancePc_reports (s : State) : (s.advancePc).reports = s.reports := rfl
@[simp] theorem advancePc_getV (s : State) (r : Reg) : (s.advancePc).getV r = s.getV r := rfl
@[simp] theorem advancePc_memRead (s : State) (a : Nat) : (s.advancePc).memRead a = s.memRead a := rfl
@[simp] theorem advancePc_keyDown (s : State) (k : Fin Config.nkeys) : (s.advancePc).keyDown k = s.keyDown k := rfl

@[simp] theorem skip_v (s : State) : (s.skip).v = s.v := rfl
@[simp] theorem skip_i (s : State) : (s.skip).i = s.i := rfl
@[simp] theorem skip_pc (s : State) : (s.skip).pc = s.pc + 2 := rfl
@[simp] theorem skip_sp (s : State) : (s.skip).sp = s.sp := rfl
@[simp] theorem skip_stack (s : State) : (s.skip).stack = s.stack := rfl
@[simp] theorem skip_dt (s : State) : (s.skip).dt = s.dt := rfl
@[simp] theorem skip_st (s : State) : (s.skip).st = s.st := rfl
@[simp] theorem skip_mem (s : State) : (s.skip).mem = s.mem := rfl
@[simp] theorem skip_fb (s : State) : (s.skip).fb = s.fb := rfl
@[simp] theorem skip_key (s : State) : (s.skip).key = s.key := rfl
@[simp] theorem skip_run (s : State) : (s.skip).run = s.run := rfl
@[simp] theorem skip_fault (s : State) : (s.skip).fault = s.fault := rfl
@[simp] theorem skip_draws (s : State) : (s.skip).draws = s.draws := rfl
@[simp] theorem skip_reports (s : State) : (s.skip).reports = s.reports := rfl
@[simp] theorem skip_getV (s : State) (r : Reg) : (s.skip).getV r = s.getV r := rfl
@[simp] theorem skip_memRead (s : State) (a : Nat) : (s.skip).memRead a = s.memRead a := rfl
@[simp] theorem skip_keyDown (s : State) (k : Fin Config.nkeys) : (s.skip).keyDown k = s.keyDown k := rfl

@[simp] theorem rewindPc_v (s : State) : (s.rewindPc).v = s.v := rfl
@[simp] theorem rewindPc_i (s : State) : (s.rewindPc).i = s.i := rfl
@[simp] theorem rewindPc_pc (s : State) : (s.rewindPc).pc = s.pc - 2 := rfl
@[simp] theorem rewindPc_sp (s : State) : (s.rewindPc).sp = s.sp := rfl
@[simp] theorem rewindPc_stack (s : State) : (s.rewindPc).stack = s.stack := rfl
@[simp] theorem rewindPc_dt (s : State) : (s.rewindPc).dt = s.dt := rfl
@[simp] theorem rewindPc_st (s : State) : (s.rewindPc).st = s.st := rfl
@[simp] theorem rewindPc_mem (s : State) : (s.rewindPc).mem = s.mem := rfl
@[simp] theorem rewindPc_fb (s : State) : (s.rewindPc).fb = s.fb := rfl
@[simp] theorem rewindPc_key (s : State) : (s.rewindPc).key = s.key := rfl
@[simp] theorem rewindPc_run (s : State) : (s.rewindPc).run = s.run := rfl
@[simp] theorem rewindPc_fault (s : State) : (s.rewindPc).fault = s.fault := rfl
@[simp] theorem rewindPc_draws (s : State) : (s.rewindPc).draws = s.draws := rfl
@[simp] theorem rewindPc_reports (s : State) : (s.rewindPc).reports = s.reports := rfl
@[simp] theorem rewindPc_getV (s : State) (r : Reg) : (s.rewindPc).getV r = s.getV r := rfl
@[simp] theorem rewindPc_memRead (s : State) (a : Nat) : (s.rewindPc).memRead a = s.memRead a := rfl
@[simp] theorem rewindPc_keyDown (s : State) (k : Fin Config.nkeys) : (s.rewindPc).keyDown k = s.keyDown k := rfl

@[simp] theorem raiseFatal_v (s : State) (c : FaultCode) : (State.raiseFatal c s).v = s.v := rfl
@[simp] theorem raiseFatal_i (s : State) (c : FaultCode) : (State.raiseFatal c s).i = s.i := rfl
@[simp] theorem raiseFatal_pc (s : State) (c : FaultCode) : (State.raiseFatal c s).pc = s.pc := rfl
@[simp] theorem raiseFatal_sp (s : State) (c : FaultCode) : (State.raiseFatal c s).sp = s.sp := rfl
@[simp] theorem raiseFatal_stack (s : State) (c : FaultCode) : (State.raiseFatal c s).stack = s.stack := rfl
@[simp] theorem raiseFatal_dt (s : State) (c : FaultCode) : (State.raiseFatal c s).dt = s.dt := rfl
@[simp] theorem raiseFatal_st (s : State) (c : FaultCode) : (State.raiseFatal c s).st = s.st := rfl
@[simp] theorem raiseFatal_mem (s : State) (c : FaultCode) : (State.raiseFatal c s).mem = s.mem := rfl
@[simp] theorem raiseFatal_fb (s : State) (c : FaultCode) : (State.raiseFatal c s).fb = s.fb := rfl
@[simp] theorem raiseFatal_key (s : State) (c : FaultCode) : (State.raiseFatal c s).key = s.key := rfl
@[simp] theorem raiseFatal_run (s : State) (c : FaultCode) : (State.raiseFatal c s).run = .halted := rfl
@[simp] theorem raiseFatal_fault (s : State) (c : FaultCode) : (State.raiseFatal c s).fault = if s.fault = .none then c else s.fault := rfl
@[simp] theorem raiseFatal_draws (s : State) (c : FaultCode) : (State.raiseFatal c s).draws = s.draws := rfl
@[simp] theorem raiseFatal_reports (s : State) (c : FaultCode) : (State.raiseFatal c s).reports = s.reports := rfl
@[simp] theorem raiseFatal_getV (s : State) (c : FaultCode) (r : Reg) : (State.raiseFatal c s).getV r = s.getV r := rfl
@[simp] theorem raiseFatal_memRead (s : State) (c : FaultCode) (a : Nat) : (State.raiseFatal c s).memRead a = s.memRead a := rfl
@[simp] theorem raiseFatal_keyDown (s : State) (c : FaultCode) (k : Fin Config.nkeys) : (State.raiseFatal c s).keyDown k = s.keyDown k := rfl

@[simp] theorem reportUnknown_v (s : State) (op addr : Word) : (State.reportUnknown op addr s).v = s.v := rfl
@[simp] theorem reportUnknown_i (s : State) (op addr : Word) : (State.reportUnknown op addr s).i = s.i := rfl
@[simp] theorem reportUnknown_pc (s : State) (op addr : Word) : (State.reportUnknown op addr s).pc = s.pc := rfl
@[simp] theorem reportUnknown_sp (s : State) (op addr : Word) : (State.reportUnknown op addr s).sp = s.sp := rfl
@[simp] theorem reportUnknown_stack (s : State) (op addr : Word) : (State.reportUnknown op addr s).stack = s.stack := rfl
@[simp] theorem reportUnknown_dt (s : State) (op addr : Word) : (State.reportUnknown op addr s).dt = s.dt := rfl
@[simp] theorem reportUnknown_st (s : State) (op addr : Word) : (State.reportUnknown op addr s).st = s.st := rfl
@[simp] theorem reportUnknown_mem (s : State) (op addr : Word) : (State.reportUnknown op addr s).mem = s.mem := rfl
@[simp] theorem reportUnknown_fb (s : State) (op addr : Word) : (State.reportUnknown op addr s).fb = s.fb := rfl
@[simp] theorem reportUnknown_key (s : State) (op addr : Word) : (State.reportUnknown op addr s).key = s.key := rfl
@[simp] theorem reportUnknown_run (s : State) (op addr : Word) : (State.reportUnknown op addr s).run = s.run := rfl
@[simp] theorem reportUnknown_fault (s : State) (op addr : Word) : (State.reportUnknown op addr s).fault = s.fault := rfl
@[simp] theorem reportUnknown_draws (s : State) (op addr : Word) : (State.reportUnknown op addr s).draws = s.draws := rfl
@[simp] theorem reportUnknown_reports (s : State) (op addr : Word) : (State.reportUnknown op addr s).reports = s.reports ++ [⟨op, addr⟩] := rfl
@[simp] theorem reportUnknown_getV (s : State) (op addr : Word) (r : Reg) : (State.reportUnknown op addr s).getV r = s.getV r := rfl
@[simp] theorem reportUnknown_memRead (s : State) (op addr : Word) (a : Nat) : (State.reportUnknown op addr s).memRead a = s.memRead a := rfl
@[simp] theorem reportUnknown_keyDown (s : State) (op addr : Word) (k : Fin Config.nkeys) : (State.reportUnknown op addr s).keyDown k = s.keyDown k := rfl

@[simp] theorem consumeDraw_v (s : State) : (s.consumeDraw).v = s.v := rfl
@[simp] theorem consumeDraw_i (s : State) : (s.consumeDraw).i = s.i := rfl
@[simp] theorem consumeDraw_pc (s : State) : (s.consumeDraw).pc = s.pc := rfl
@[simp] theorem consumeDraw_sp (s : State) : (s.consumeDraw).sp = s.sp := rfl
@[simp] theorem consumeDraw_stack (s : State) : (s.consumeDraw).stack = s.stack := rfl
@[simp] theorem consumeDraw_dt (s : State) : (s.consumeDraw).dt = s.dt := rfl
@[simp] theorem consumeDraw_st (s : State) : (s.consumeDraw).st = s.st := rfl
@[simp] theorem consumeDraw_mem (s : State) : (s.consumeDraw).mem = s.mem := rfl
@[simp] theorem consumeDraw_fb (s : State) : (s.consumeDraw).fb = s.fb := rfl
@[simp] theorem consumeDraw_key (s : State) : (s.consumeDraw).key = s.key := rfl
@[simp] theorem consumeDraw_run (s : State) : (s.consumeDraw).run = s.run := rfl
@[simp] theorem consumeDraw_fault (s : State) : (s.consumeDraw).fault = s.fault := rfl
@[simp] theorem consumeDraw_draws (s : State) : (s.consumeDraw).draws = s.draws + 1 := rfl
@[simp] theorem consumeDraw_reports (s : State) : (s.consumeDraw).reports = s.reports := rfl
@[simp] theorem consumeDraw_getV (s : State) (r : Reg) : (s.consumeDraw).getV r = s.getV r := rfl
@[simp] theorem consumeDraw_memRead (s : State) (a : Nat) : (s.consumeDraw).memRead a = s.memRead a := rfl
@[simp] theorem consumeDraw_keyDown (s : State) (k : Fin Config.nkeys) : (s.consumeDraw).keyDown k = s.keyDown k := rfl

@[simp] theorem tick_v (s : State) : (s.tick).v = s.v := rfl
@[simp] theorem tick_i (s : State) : (s.tick).i = s.i := rfl
@[simp] theorem tick_pc (s : State) : (s.tick).pc = s.pc := rfl
@[simp] theorem tick_sp (s : State) : (s.tick).sp = s.sp := rfl
@[simp] theorem tick_stack (s : State) : (s.tick).stack = s.stack := rfl
@[simp] theorem tick_dt (s : State) : (s.tick).dt = countDown s.dt := rfl
@[simp] theorem tick_st (s : State) : (s.tick).st = countDown s.st := rfl
@[simp] theorem tick_mem (s : State) : (s.tick).mem = s.mem := rfl
@[simp] theorem tick_fb (s : State) : (s.tick).fb = s.fb := rfl
@[simp] theorem tick_key (s : State) : (s.tick).key = s.key := rfl
@[simp] theorem tick_run (s : State) : (s.tick).run = s.run := rfl
@[simp] theorem tick_fault (s : State) : (s.tick).fault = s.fault := rfl
@[simp] theorem tick_draws (s : State) : (s.tick).draws = s.draws := rfl
@[simp] theorem tick_reports (s : State) : (s.tick).reports = s.reports := rfl
@[simp] theorem tick_getV (s : State) (r : Reg) : (s.tick).getV r = s.getV r := rfl
@[simp] theorem tick_memRead (s : State) (a : Nat) : (s.tick).memRead a = s.memRead a := rfl
@[simp] theorem tick_keyDown (s : State) (k : Fin Config.nkeys) : (s.tick).keyDown k = s.keyDown k := rfl

@[simp] theorem setKey_v (s : State) (q : Fin Config.nkeys) (down : Bool) : (State.setKey q down s).v = s.v := rfl
@[simp] theorem setKey_i (s : State) (q : Fin Config.nkeys) (down : Bool) : (State.setKey q down s).i = s.i := rfl
@[simp] theorem setKey_pc (s : State) (q : Fin Config.nkeys) (down : Bool) : (State.setKey q down s).pc = s.pc := rfl
@[simp] theorem setKey_sp (s : State) (q : Fin Config.nkeys) (down : Bool) : (State.setKey q down s).sp = s.sp := rfl
@[simp] theorem setKey_stack (s : State) (q : Fin Config.nkeys) (down : Bool) : (State.setKey q down s).stack = s.stack := rfl
@[simp] theorem setKey_dt (s : State) (q : Fin Config.nkeys) (down : Bool) : (State.setKey q down s).dt = s.dt := rfl
@[simp] theorem setKey_st (s : State) (q : Fin Config.nkeys) (down : Bool) : (State.setKey q down s).st = s.st := rfl
@[simp] theorem setKey_mem (s : State) (q : Fin Config.nkeys) (down : Bool) : (State.setKey q down s).mem = s.mem := rfl
@[simp] theorem setKey_fb (s : State) (q : Fin Config.nkeys) (down : Bool) : (State.setKey q down s).fb = s.fb := rfl
@[simp] theorem setKey_key (s : State) (q : Fin Config.nkeys) (down : Bool) : (State.setKey q down s).key = s.key.set q.val down q.isLt := rfl
@[simp] theorem setKey_run (s : State) (q : Fin Config.nkeys) (down : Bool) : (State.setKey q down s).run = s.run := rfl
@[simp] theorem setKey_fault (s : State) (q : Fin Config.nkeys) (down : Bool) : (State.setKey q down s).fault = s.fault := rfl
@[simp] theorem setKey_draws (s : State) (q : Fin Config.nkeys) (down : Bool) : (State.setKey q down s).draws = s.draws := rfl
@[simp] theorem setKey_reports (s : State) (q : Fin Config.nkeys) (down : Bool) : (State.setKey q down s).reports = s.reports := rfl
@[simp] theorem setKey_getV (s : State) (q : Fin Config.nkeys) (down : Bool) (r : Reg) : (State.setKey q down s).getV r = s.getV r := rfl
@[simp] theorem setKey_memRead (s : State) (q : Fin Config.nkeys) (down : Bool) (a : Nat) : (State.setKey q down s).memRead a = s.memRead a := rfl

@[simp] theorem pauseToggle_v (s : State) : (s.pauseToggle).v = s.v := rfl
@[simp] theorem pauseToggle_i (s : State) : (s.pauseToggle).i = s.i := rfl
@[simp] theorem pauseToggle_pc (s : State) : (s.pauseToggle).pc = s.pc := rfl
@[simp] theorem pauseToggle_sp (s : State) : (s.pauseToggle).sp = s.sp := rfl
@[simp] theorem pauseToggle_stack (s : State) : (s.pauseToggle).stack = s.stack := rfl
@[simp] theorem pauseToggle_dt (s : State) : (s.pauseToggle).dt = s.dt := rfl
@[simp] theorem pauseToggle_st (s : State) : (s.pauseToggle).st = s.st := rfl
@[simp] theorem pauseToggle_mem (s : State) : (s.pauseToggle).mem = s.mem := rfl
@[simp] theorem pauseToggle_fb (s : State) : (s.pauseToggle).fb = s.fb := rfl
@[simp] theorem pauseToggle_key (s : State) : (s.pauseToggle).key = s.key := rfl
@[simp] theorem pauseToggle_run (s : State) : (s.pauseToggle).run = s.run.toggled := rfl
@[simp] theorem pauseToggle_fault (s : State) : (s.pauseToggle).fault = s.fault := rfl
@[simp] theorem pauseToggle_draws (s : State) : (s.pauseToggle).draws = s.draws := rfl
@[simp] theorem pauseToggle_reports (s : State) : (s.pauseToggle).reports = s.reports := rfl
@[simp] theorem pauseToggle_getV (s : State) (r : Reg) : (s.pauseToggle).getV r = s.getV r := rfl
@[simp] theorem pauseToggle_memRead (s : State) (a : Nat) : (s.pauseToggle).memRead a = s.memRead a := rfl
@[simp] theorem pauseToggle_keyDown (s : State) (k : Fin Config.nkeys) : (s.pauseToggle).keyDown k = s.keyDown k := rfl

@[simp] theorem quit_v (s : State) : (s.quit).v = s.v := rfl
@[simp] theorem quit_i (s : State) : (s.quit).i = s.i := rfl
@[simp] theorem quit_pc (s : State) : (s.quit).pc = s.pc := rfl
@[simp] theorem quit_sp (s : State) : (s.quit).sp = s.sp := rfl
@[simp] theorem quit_stack (s : State) : (s.quit).stack = s.stack := rfl
@[simp] theorem quit_dt (s : State) : (s.quit).dt = s.dt := rfl
@[simp] theorem quit_st (s : State) : (s.quit).st = s.st := rfl
@[simp] theorem quit_mem (s : State) : (s.quit).mem = s.mem := rfl
@[simp] theorem quit_fb (s : State) : (s.quit).fb = s.fb := rfl
@[simp] theorem quit_key (s : State) : (s.quit).key = s.key := rfl
@[simp] theorem quit_run (s : State) : (s.quit).run = .halted := rfl
@[simp] theorem quit_fault (s : State) : (s.quit).fault = s.fault := rfl
@[simp] theorem quit_draws (s : State) : (s.quit).draws = s.draws := rfl
@[simp] theorem quit_reports (s : State) : (s.quit).reports = s.reports := rfl
@[simp] theorem quit_getV (s : State) (r : Reg) : (s.quit).getV r = s.getV r := rfl
@[simp] theorem quit_memRead (s : State) (a : Nat) : (s.quit).memRead a = s.memRead a := rfl
@[simp] theorem quit_keyDown (s : State) (k : Fin Config.nkeys) : (s.quit).keyDown k = s.keyDown k := rfl

/-- `V[q] <- b` then `V[r]`: the register file holds what was last written (R10). -/
@[simp] theorem setV_getV (s : State) (q r : Reg) (b : Byte) :
    (s.setV q b).getV r = if q = r then b else s.getV r := by
  simp only [getV, setV, Vector.getElem_set, Fin.ext_iff]

/-- `KEY[q] <- down` then `KEY[k]`. -/
@[simp] theorem setKey_keyDown (s : State) (q k : Fin Config.nkeys) (down : Bool) :
    (State.setKey q down s).keyDown k = if q = k then down else s.keyDown k := by
  simp only [keyDown, setKey, Vector.getElem_set, Fin.ext_iff]

/-- Two states are equal when every field is. -/
theorem ext_fields {s t : State} (v : s.v = t.v) (i : s.i = t.i) (pc : s.pc = t.pc) (sp : s.sp = t.sp)
    (stack : s.stack = t.stack) (dt : s.dt = t.dt) (st : s.st = t.st) (mem : s.mem = t.mem) (fb : s.fb = t.fb)
    (key : s.key = t.key) (run : s.run = t.run) (fault : s.fault = t.fault) (draws : s.draws = t.draws)
    (reports : s.reports = t.reports) : s = t := by
  cases s; cases t; simp_all

/-- The register files are equal when every register is. -/
theorem v_ext {s t : State} (h : ∀ r, s.getV r = t.getV r) : s.v = t.v := by
  apply Vector.ext
  intro k hk
  exact h ⟨k, hk⟩

end Sys2Proof.Machine.State
end

