-- ==== Sys2Proof/Laws/Ops.lean ====
section
/-! SUPPORT. One lemma per shared operation that says everything it can do: reads after writes, blocks of bytes, register
ranges, push and pop, skips, flags. -/

namespace Sys2Proof.Machine

/-- An effective address is below MEM_SIZE (R53). -/
theorem ea_lt (a : Nat) : ea a < Config.memSize := Nat.mod_lt _ (by decide)

/-- `ea` of a sum looks only at the effective address of the base (R53). -/
theorem ea_add (a k : Nat) : ea (a + k) = ea (ea a + k) := by
  simp [ea]

/-- PC, a 16-bit sum, names the byte its exact sum names: 4096 divides 2^16 (R53). -/
theorem ea_toNat_add (w : Word) (k : Nat) : ea (w + BitVec.ofNat 16 k).toNat = ea (w.toNat + k) := by
  simp only [ea, Config.memSize, BitVec.toNat_add, BitVec.toNat_ofNat]
  omega

/-- The second byte of a fetch at w − 1 stands at w (R52, R53). -/
theorem ea_toNat_pred (w : Word) : ea ((w - 1).toNat + 1) = ea w.toNat := by
  have h1 : (1 : Word).toNat = 1 := rfl
  have := w.isLt
  simp only [ea, Config.memSize, BitVec.toNat_sub, h1]
  omega

/-- Offsets below MEM_SIZE from one base have different effective addresses (R146). -/
theorem ea_offset_inj {a k l : Nat} (hk : k < Config.memSize) (hl : l < Config.memSize) (h : ea (a + k) = ea (a + l)) :
    k = l := by
  simp only [ea, Config.memSize] at *
  omega

namespace State

/-- MemWrite then MemRead (R11, R53, R58). -/
@[simp] theorem memWrite_memRead (s : State) (a c : Nat) (b : Byte) :
    (s.memWrite a b).memRead c = if ea c = ea a then b else s.memRead c := by
  simp [memRead]

/-- A read looks only at the effective address (R53). -/
theorem memRead_congr {a c : Nat} (h : ea a = ea c) (s : State) : s.memRead a = s.memRead c := by
  rw [memRead, h, memRead]

/-- A read looks only at MEM. -/
theorem memRead_of_mem {s t : State} (h : s.mem = t.mem) (a : Nat) : s.memRead a = t.memRead a := by
  rw [memRead, h, memRead]

/-- MemWrite keeps the canonical form. -/
theorem memWrite_wf {s : State} (h : s.mem.wf = true) (a : Nat) (b : Byte) : (s.memWrite a b).mem.wf = true :=
  Memory.wf_write h (ea_lt a) b

/-- storeBytes touches MEM only. -/
theorem storeBytes_eq (a : Nat) (bs : List Byte) (s : State) :
    s.storeBytes a bs = { s with mem := (s.storeBytes a bs).mem } := by
  induction bs generalizing a s with
  | nil => rfl
  | cons b bs ih =>
    rw [storeBytes, ih]
    rfl

/-- storeBytes keeps the canonical form. -/
theorem storeBytes_wf {s : State} (h : s.mem.wf = true) (a : Nat) (bs : List Byte) : (s.storeBytes a bs).mem.wf = true := by
  induction bs generalizing a s with
  | nil => exact h
  | cons b bs ih => exact ih (memWrite_wf h a b) (a + 1)

/-- Off the block, a byte reads as before. -/
theorem storeBytes_memRead_off (a c : Nat) (bs : List Byte) (s : State) (h : ∀ k < bs.length, ea c ≠ ea (a + k)) :
    (s.storeBytes a bs).memRead c = s.memRead c := by
  induction bs generalizing a s with
  | nil => rfl
  | cons b bs ih =>
    rw [storeBytes, ih]
    · have := h 0 (by simp)
      simp_all
    · intro k hk
      have := h (k + 1) (by simpa using hk)
      rwa [show a + (k + 1) = a + 1 + k by omega] at this

/-- On the block, offset k reads as byte k; a block of at most MEM_SIZE bytes does not meet itself (R64, R146). -/
theorem storeBytes_memRead_on (a k : Nat) (bs : List Byte) (s : State) (hlen : bs.length ≤ Config.memSize)
    (hk : k < bs.length) : (s.storeBytes a bs).memRead (a + k) = bs[k] := by
  induction bs generalizing a k s with
  | nil => simp at hk
  | cons b bs ih =>
    rw [storeBytes]
    cases k with
    | zero =>
      rw [storeBytes_memRead_off]
      · simp
      · intro l hl heq
        simp only [List.length_cons] at hlen
        have := ea_offset_inj (a := a) (k := 0) (l := l + 1) (by decide) (by omega)
          (by rw [heq]; congr 1; omega)
        omega
    | succ k =>
      rw [show a + (k + 1) = a + 1 + k by omega, ih (a + 1) k]
      · simp
      · simp only [List.length_cons] at hlen
        omega
      · simpa using hk

/-- loadRegs touches V only. -/
theorem loadRegs_eq (a : Nat) (rs : List Reg) (s : State) : s.loadRegs a rs = { s with v := (s.loadRegs a rs).v } := by
  induction rs generalizing s with
  | nil => rfl
  | cons r rs ih =>
    rw [loadRegs, ih]
    rfl

/-- loadRegs fills exactly the registers of the list, each from its own offset (R145). -/
theorem loadRegs_getV (a : Nat) (rs : List Reg) (s : State) (r : Reg) :
    (s.loadRegs a rs).getV r = if r ∈ rs then s.memRead (a + r.val) else s.getV r := by
  induction rs generalizing s with
  | nil => simp [loadRegs]
  | cons q rs ih =>
    rw [loadRegs, ih]
    by_cases h : r = q
    · subst h
      simp
    · simp [h, Ne.symm h]

/-- The registers V0 to VX (R72). -/
@[simp] theorem mem_regsUpTo (x r : Reg) : r ∈ regsUpTo x ↔ r.val ≤ x.val := by
  revert x r
  decide

/-- V0 to VX are X + 1 registers. -/
@[simp] theorem length_regsUpTo (x : Reg) : (regsUpTo x).length = x.val + 1 := by
  revert x
  decide

/-- The k-th of V0 to VX is Vk. -/
theorem getElem_regsUpTo (x : Reg) (k : Nat) (h : k < (regsUpTo x).length) :
    (regsUpTo x)[k] = ⟨k, by have := x.isLt; have := length_regsUpTo x; omega⟩ := by
  have hx : k < x.val + 1 := by simpa using h
  revert hx h
  revert k x
  decide

@[simp] theorem length_regBytes (s : State) (x : Reg) : (s.regBytes x).length = x.val + 1 := by
  simp [regBytes]

/-- Byte k of the block FX55 stores is Vk (R144). -/
theorem getElem_regBytes (s : State) (x r : Reg) (h : r.val ≤ x.val) :
    (s.regBytes x)[r.val]'(by simp; omega) = s.getV r := by
  simp [regBytes, getElem_regsUpTo]

/-- The addresses of a block, as a membership test. -/
theorem mem_blockAddrs {a n c : Nat} : ea c ∈ blockAddrs a n ↔ ∃ k < n, ea c = ea (a + k) := by
  simp [blockAddrs, eq_comm]

/-- A push on a stack that is not full (R28). -/
theorem push_of_lt {s : State} (w : Word) (h : s.sp.val < Config.stackDepth) :
    s.push w = some { s with stack := s.stack.set s.sp.val w h, sp := ⟨s.sp.val + 1, Nat.succ_lt_succ h⟩ } := by
  simp only [push, h, dif_pos]

/-- There is no push on a full stack (R28, R202). -/
theorem push_of_full {s : State} (w : Word) (h : s.sp.val = Config.stackDepth) : s.push w = none := by
  simp [push, h]

/-- A pop from a stack that is not empty (R28). -/
theorem pop_of_pos {s : State} (h : 0 < s.sp.val) :
    s.pop = some (s.stack[s.sp.val - 1]'(by have := s.sp.isLt; omega),
      { s with sp := ⟨s.sp.val - 1, Nat.lt_of_le_of_lt (Nat.sub_le _ _) s.sp.isLt⟩ }) := by
  simp only [pop, h, dif_pos]

/-- There is no pop from an empty stack (R28, R203). -/
theorem pop_of_empty {s : State} (h : s.sp.val = 0) : s.pop = none := by
  simp [pop, h]

/-- Push, then pop: the word pushed, and the stack pointer as before (R28). -/
theorem pop_push {s t : State} {w : Word} (h : s.push w = some t) : ∃ u, t.pop = some (w, u) ∧ u.sp = s.sp := by
  by_cases hs : s.sp.val < Config.stackDepth
  · rw [push_of_lt w hs] at h
    cases h
    exact ⟨_, by rw [pop_of_pos (by simp)]; simp; rfl, by simp⟩
  · simp [push, hs] at h

/-- A conditional skip changes PC only, by 2 when its condition holds (R101). -/
theorem skipIf_eq (c : Bool) (s : State) : s.skipIf c = s.setPc (if c then s.pc + 2 else s.pc) := by
  cases c <;> rfl

/-- Flag into VF, then result into VX (R121). -/
theorem setFlagThenV_getV (s : State) (f : Bool) (x r : Reg) (b : Byte) :
    (s.setFlagThenV f x b).getV r = if x = r then b else if VF = r then flagByte f else s.getV r := by
  simp [setFlagThenV]

/-- The least pressed key is pressed, and no smaller key is (R183). -/
theorem leastKey_some {s : State} {k : Fin 16} (h : s.leastKey = some k) :
    s.keyDown k = true ∧ ∀ j < k, s.keyDown j = false := by
  obtain ⟨hk, as, bs, heq, has⟩ := List.find?_eq_some_iff_append.mp h
  refine ⟨hk, fun j hj => ?_⟩
  have hmem : j ∈ as := by
    have hall : ∀ j : Fin 16, j ∈ sixteen := by decide
    have hsorted : sixteen.Pairwise (· < ·) := by decide
    rw [heq] at hsorted
    have hj' := hall j
    rw [heq] at hj'
    rcases List.mem_append.mp hj' with hl | hr
    · exact hl
    · rcases List.mem_cons.mp hr with rfl | hr
      · exact absurd hj (lt_irrefl _)
      · have := List.rel_of_pairwise_cons (List.pairwise_append.mp hsorted).2.1 hr
        exact absurd hj (not_lt.mpr this.le)
  simpa using has j hmem

/-- No least key: no key is pressed (R183). -/
theorem leastKey_none {s : State} : s.leastKey = none ↔ ∀ k, s.keyDown k = false := by
  have hall : ∀ j : Fin 16, j ∈ sixteen := by decide
  simp only [leastKey, List.find?_eq_none, Bool.not_eq_true]
  exact ⟨fun h k => h k (hall k), fun h k _ => h k⟩

end State

/-- Bytes and words: the exact sum, difference and shifts are what R120 says, on integers. -/
theorem sum8_toNat (a b : Byte) : (sum8 a b).toNat = (a.toNat + b.toNat) % 256 := by
  simp [sum8]

theorem diff8_toNat (a b : Byte) : ((diff8 a b).toNat : Int) = ((a.toNat : Int) - b.toNat) % 256 := by
  simp only [diff8, BitVec.toNat_ofInt]
  have : (0 : Int) ≤ ((a.toNat : Int) - b.toNat) % 256 := Int.emod_nonneg _ (by decide)
  simpa using this

theorem shiftRight1_toNat (a : Byte) : (shiftRight1 a).toNat = a.toNat / 2 := by
  have := a.isLt
  simp only [shiftRight1, BitVec.toNat_ofNat]
  omega

theorem shiftLeft1_toNat (a : Byte) : (shiftLeft1 a).toNat = a.toNat * 2 % 256 := by
  simp [shiftLeft1]

end Sys2Proof.Machine
end

