-- ==== Sys2Proof/Laws/PerInstr.lean ====
section
/-! SUPPORT. Statements made of every instruction, one lemma per constructor. RowMatch: the word the encoder writes matches,
by `op AND mask == match`, the row of the opcode map that carries the instruction's mnemonic (30_encoding.md R73). -/

namespace Sys2Proof.Laws.RowMatch

/-- The encoded word matches a row with the instruction's mnemonic. -/
def Statement (i : Instr) : Prop :=
  ∃ row ∈ opcodeTable, row.mnemonic = i.mnemonic ∧ row.matches (encode i) = true

theorem cls : Statement .cls :=
  ⟨⟨"CLS", 0xFFFF, 0x00E0⟩, by decide, rfl, (matches_FFFF _ _ _).mpr rfl⟩

theorem ret : Statement .ret :=
  ⟨⟨"RET", 0xFFFF, 0x00EE⟩, by decide, rfl, (matches_FFFF _ _ _).mpr rfl⟩

theorem jpAddr (nnn : Addr12) : Statement (.jpAddr nnn) :=
  ⟨⟨"JP_addr", 0xF000, 0x1000⟩, by decide, rfl, (matches_F000 _ _ 1 (by decide)).mpr (by simp [encode])⟩

theorem callAddr (nnn : Addr12) : Statement (.callAddr nnn) :=
  ⟨⟨"CALL_addr", 0xF000, 0x2000⟩, by decide, rfl, (matches_F000 _ _ 2 (by decide)).mpr (by simp [encode])⟩

theorem seVxByte (x : Reg) (nn : Byte) : Statement (.seVxByte x nn) :=
  ⟨⟨"SE_Vx__byte", 0xF000, 0x3000⟩, by decide, rfl, (matches_F000 _ _ 3 (by decide)).mpr (by simp [encode])⟩

theorem sneVxByte (x : Reg) (nn : Byte) : Statement (.sneVxByte x nn) :=
  ⟨⟨"SNE_Vx__byte", 0xF000, 0x4000⟩, by decide, rfl, (matches_F000 _ _ 4 (by decide)).mpr (by simp [encode])⟩

theorem seVxVy (x : Reg) (y : Reg) : Statement (.seVxVy x y) :=
  ⟨⟨"SE_Vx__Vy", 0xF00F, 0x5000⟩, by decide, rfl, (matches_F00F _ _ 5 0 (by decide) (by decide)).mpr (by simp [encode])⟩

theorem ldVxByte (x : Reg) (nn : Byte) : Statement (.ldVxByte x nn) :=
  ⟨⟨"LD_Vx__byte", 0xF000, 0x6000⟩, by decide, rfl, (matches_F000 _ _ 6 (by decide)).mpr (by simp [encode])⟩

theorem addVxByte (x : Reg) (nn : Byte) : Statement (.addVxByte x nn) :=
  ⟨⟨"ADD_Vx__byte", 0xF000, 0x7000⟩, by decide, rfl, (matches_F000 _ _ 7 (by decide)).mpr (by simp [encode])⟩

theorem ldVxVy (x : Reg) (y : Reg) : Statement (.ldVxVy x y) :=
  ⟨⟨"LD_Vx__Vy", 0xF00F, 0x8000⟩, by decide, rfl, (matches_F00F _ _ 8 0 (by decide) (by decide)).mpr (by simp [encode])⟩

theorem orVxVy (x : Reg) (y : Reg) : Statement (.orVxVy x y) :=
  ⟨⟨"OR_Vx__Vy", 0xF00F, 0x8001⟩, by decide, rfl, (matches_F00F _ _ 8 1 (by decide) (by decide)).mpr (by simp [encode])⟩

theorem andVxVy (x : Reg) (y : Reg) : Statement (.andVxVy x y) :=
  ⟨⟨"AND_Vx__Vy", 0xF00F, 0x8002⟩, by decide, rfl, (matches_F00F _ _ 8 2 (by decide) (by decide)).mpr (by simp [encode])⟩

theorem xorVxVy (x : Reg) (y : Reg) : Statement (.xorVxVy x y) :=
  ⟨⟨"XOR_Vx__Vy", 0xF00F, 0x8003⟩, by decide, rfl, (matches_F00F _ _ 8 3 (by decide) (by decide)).mpr (by simp [encode])⟩

theorem addVxVy (x : Reg) (y : Reg) : Statement (.addVxVy x y) :=
  ⟨⟨"ADD_Vx__Vy", 0xF00F, 0x8004⟩, by decide, rfl, (matches_F00F _ _ 8 4 (by decide) (by decide)).mpr (by simp [encode])⟩

theorem subVxVy (x : Reg) (y : Reg) : Statement (.subVxVy x y) :=
  ⟨⟨"SUB_Vx__Vy", 0xF00F, 0x8005⟩, by decide, rfl, (matches_F00F _ _ 8 5 (by decide) (by decide)).mpr (by simp [encode])⟩

theorem shrVxVy (x : Reg) (y : Reg) : Statement (.shrVxVy x y) :=
  ⟨⟨"SHR_Vx__Vy", 0xF00F, 0x8006⟩, by decide, rfl, (matches_F00F _ _ 8 6 (by decide) (by decide)).mpr (by simp [encode])⟩

theorem subnVxVy (x : Reg) (y : Reg) : Statement (.subnVxVy x y) :=
  ⟨⟨"SUBN_Vx__Vy", 0xF00F, 0x8007⟩, by decide, rfl, (matches_F00F _ _ 8 7 (by decide) (by decide)).mpr (by simp [encode])⟩

theorem shlVxVy (x : Reg) (y : Reg) : Statement (.shlVxVy x y) :=
  ⟨⟨"SHL_Vx__Vy", 0xF00F, 0x800E⟩, by decide, rfl, (matches_F00F _ _ 8 14 (by decide) (by decide)).mpr (by simp [encode])⟩

theorem sneVxVy (x : Reg) (y : Reg) : Statement (.sneVxVy x y) :=
  ⟨⟨"SNE_Vx__Vy", 0xF00F, 0x9000⟩, by decide, rfl, (matches_F00F _ _ 9 0 (by decide) (by decide)).mpr (by simp [encode])⟩

theorem ldIAddr (nnn : Addr12) : Statement (.ldIAddr nnn) :=
  ⟨⟨"LD_I__addr", 0xF000, 0xA000⟩, by decide, rfl, (matches_F000 _ _ 10 (by decide)).mpr (by simp [encode])⟩

theorem jpV0Addr (nnn : Addr12) : Statement (.jpV0Addr nnn) :=
  ⟨⟨"JP_V0__addr", 0xF000, 0xB000⟩, by decide, rfl, (matches_F000 _ _ 11 (by decide)).mpr (by simp [encode])⟩

theorem rndVxByte (x : Reg) (nn : Byte) : Statement (.rndVxByte x nn) :=
  ⟨⟨"RND_Vx__byte", 0xF000, 0xC000⟩, by decide, rfl, (matches_F000 _ _ 12 (by decide)).mpr (by simp [encode])⟩

theorem drwVxVyNibble (x : Reg) (y : Reg) (n : Nibble) : Statement (.drwVxVyNibble x y n) :=
  ⟨⟨"DRW_Vx__Vy__nibble", 0xF000, 0xD000⟩, by decide, rfl, (matches_F000 _ _ 13 (by decide)).mpr (by simp [encode])⟩

theorem skpVx (x : Reg) : Statement (.skpVx x) :=
  ⟨⟨"SKP_Vx", 0xF0FF, 0xE09E⟩, by decide, rfl, (matches_F0FF _ _ 14 158 (by decide) (by decide)).mpr (by simp [encode])⟩

theorem sknpVx (x : Reg) : Statement (.sknpVx x) :=
  ⟨⟨"SKNP_Vx", 0xF0FF, 0xE0A1⟩, by decide, rfl, (matches_F0FF _ _ 14 161 (by decide) (by decide)).mpr (by simp [encode])⟩

theorem ldVxDT (x : Reg) : Statement (.ldVxDT x) :=
  ⟨⟨"LD_Vx__DT", 0xF0FF, 0xF007⟩, by decide, rfl, (matches_F0FF _ _ 15 7 (by decide) (by decide)).mpr (by simp [encode])⟩

theorem ldVxK (x : Reg) : Statement (.ldVxK x) :=
  ⟨⟨"LD_Vx__K", 0xF0FF, 0xF00A⟩, by decide, rfl, (matches_F0FF _ _ 15 10 (by decide) (by decide)).mpr (by simp [encode])⟩

theorem ldDTVx (x : Reg) : Statement (.ldDTVx x) :=
  ⟨⟨"LD_DT__Vx", 0xF0FF, 0xF015⟩, by decide, rfl, (matches_F0FF _ _ 15 21 (by decide) (by decide)).mpr (by simp [encode])⟩

theorem ldSTVx (x : Reg) : Statement (.ldSTVx x) :=
  ⟨⟨"LD_ST__Vx", 0xF0FF, 0xF018⟩, by decide, rfl, (matches_F0FF _ _ 15 24 (by decide) (by decide)).mpr (by simp [encode])⟩

theorem addIVx (x : Reg) : Statement (.addIVx x) :=
  ⟨⟨"ADD_I__Vx", 0xF0FF, 0xF01E⟩, by decide, rfl, (matches_F0FF _ _ 15 30 (by decide) (by decide)).mpr (by simp [encode])⟩

theorem ldFVx (x : Reg) : Statement (.ldFVx x) :=
  ⟨⟨"LD_F__Vx", 0xF0FF, 0xF029⟩, by decide, rfl, (matches_F0FF _ _ 15 41 (by decide) (by decide)).mpr (by simp [encode])⟩

theorem ldBVx (x : Reg) : Statement (.ldBVx x) :=
  ⟨⟨"LD_B__Vx", 0xF0FF, 0xF033⟩, by decide, rfl, (matches_F0FF _ _ 15 51 (by decide) (by decide)).mpr (by simp [encode])⟩

theorem ldMemIVx (x : Reg) : Statement (.ldMemIVx x) :=
  ⟨⟨"LD__I___Vx", 0xF0FF, 0xF055⟩, by decide, rfl, (matches_F0FF _ _ 15 85 (by decide) (by decide)).mpr (by simp [encode])⟩

theorem ldVxMemI (x : Reg) : Statement (.ldVxMemI x) :=
  ⟨⟨"LD_Vx___I", 0xF0FF, 0xF065⟩, by decide, rfl, (matches_F0FF _ _ 15 101 (by decide) (by decide)).mpr (by simp [encode])⟩

end Sys2Proof.Laws.RowMatch
end

