-- ==== Sys2Proof/Laws/Sprite.lean ====
section
/-! SUPPORT. The framebuffer's pixel laws, and what the draw loop of R162 does as a whole-array function (43_sprite_xor.md
R163 to R165). -/

namespace Sys2Proof.Machine

namespace FrameBuffer

/-- A blank framebuffer has no set pixel (R160). -/
@[simp] theorem pixel_blank (x y : Nat) : blank.pixel x y = false := by
  unfold pixel
  split <;> simp [blank]

/-- Off the screen there is no pixel. -/
theorem pixel_off {x y : Nat} (h : ¬(x < 64 ∧ y < 32)) (fb : FrameBuffer) : fb.pixel x y = false := by
  rw [pixel, dif_neg h]

/-- Toggling flips the pixel at its position and no other. -/
theorem pixel_toggle (fb : FrameBuffer) (x y px py : Nat) :
    (fb.toggle x y).pixel px py =
      if px = x ∧ py = y ∧ x < 64 ∧ y < 32 then !fb.pixel px py else fb.pixel px py := by
  by_cases h : x < 64 ∧ y < 32
  · by_cases hp : px < 64 ∧ py < 32
    · simp only [toggle, pixel, Config.screenW, Config.screenH, h, hp, and_self, dite_true, Vector.getElem_set]
      by_cases hy : y = py
      · subst hy
        by_cases hx : x = px
        · subst hx
          simp
        · simp [hx, Ne.symm hx]
      · simp [hy, Ne.symm hy]
    · rw [pixel_off hp, pixel_off hp, if_neg]
      rintro ⟨rfl, rfl, hx, hy⟩
      exact hp ⟨hx, hy⟩
  · rw [toggle, dif_neg h, if_neg]
    rintro ⟨-, -, hx, hy⟩
    exact h ⟨hx, hy⟩

/-- Two framebuffers with the same pixels are equal. -/
theorem ext_pixel {fb fb' : FrameBuffer} (h : ∀ x y, fb.pixel x y = fb'.pixel x y) : fb = fb' := by
  apply Vector.ext
  intro y hy
  apply Vector.ext
  intro x hx
  have := h x y
  simpa [pixel, hx, hy] using this

end FrameBuffer

namespace Canvas

/-- One plotted bit: the pixel flips if it is on the screen (R162, R163). -/
theorem plot_pixel (px py x y : Nat) (c : Canvas) :
    (c.plot px py).fb.pixel x y = if x = px ∧ y = py ∧ px < 64 ∧ py < 32 then !c.fb.pixel x y else c.fb.pixel x y := by
  unfold plot
  split
  · simp only [FrameBuffer.pixel_toggle]
  · rename_i h
    rw [if_neg]
    rintro ⟨-, -, h1, h2⟩
    exact h ⟨h1, h2⟩

/-- One plotted bit: the latch is set by a set pixel on the screen and never cleared (R164). -/
theorem plot_hit (px py : Nat) (c : Canvas) :
    (c.plot px py).hit = true ↔ c.hit = true ∨ c.fb.pixel px py = true := by
  unfold plot
  split
  · simp
  · rename_i h
    simp [FrameBuffer.pixel_off h]

/-- The loop over columns, for any list of distinct columns: the pixels. -/
theorem plotCols_pixel (x0 py : Nat) (b : Byte) (cols : List Nat) (hn : cols.Nodup) (c : Canvas) (x y : Nat) :
    (cols.foldl (fun d col => if b.getLsbD (7 - col) then d.plot (x0 + col) py else d) c).fb.pixel x y = true ↔
      (c.fb.pixel x y = true ↔
        ¬(x < 64 ∧ y < 32 ∧ ∃ col ∈ cols, b.getLsbD (7 - col) = true ∧ x = x0 + col ∧ y = py)) := by
  induction cols generalizing c with
  | nil => simp
  | cons k cols ih =>
    rw [List.nodup_cons] at hn
    rw [List.foldl_cons, ih hn.2]
    by_cases hb : b.getLsbD (7 - k) = true
    · rw [if_pos hb, plot_pixel]
      by_cases hk : x = x0 + k ∧ y = py ∧ x0 + k < 64 ∧ py < 32
      · obtain ⟨rfl, rfl, h1, h2⟩ := hk
        simp [h1, h2, hb, hn.1]
      · rw [if_neg hk]
        have : (x < 64 ∧ y < 32 ∧ ∃ col ∈ k :: cols, b.getLsbD (7 - col) = true ∧ x = x0 + col ∧ y = py) ↔
            (x < 64 ∧ y < 32 ∧ ∃ col ∈ cols, b.getLsbD (7 - col) = true ∧ x = x0 + col ∧ y = py) := by
          constructor
          · rintro ⟨h1, h2, col, hm, h3, h4, h5⟩
            rcases List.mem_cons.mp hm with rfl | hm
            · exact absurd ⟨h4, h5, h4 ▸ h1, h5 ▸ h2⟩ hk
            · exact ⟨h1, h2, col, hm, h3, h4, h5⟩
          · rintro ⟨h1, h2, col, hm, h3⟩
            exact ⟨h1, h2, col, List.mem_cons_of_mem _ hm, h3⟩
        rw [this]
    · rw [if_neg hb]
      simp [hb]

/-- The loop over columns: the latch. -/
theorem plotCols_hit (x0 py : Nat) (b : Byte) (cols : List Nat) (hn : cols.Nodup) (c : Canvas) :
    (cols.foldl (fun d col => if b.getLsbD (7 - col) then d.plot (x0 + col) py else d) c).hit = true ↔
      c.hit = true ∨ ∃ col ∈ cols, b.getLsbD (7 - col) = true ∧ c.fb.pixel (x0 + col) py = true := by
  induction cols generalizing c with
  | nil => simp
  | cons k cols ih =>
    rw [List.nodup_cons] at hn
    rw [List.foldl_cons, ih hn.2]
    by_cases hb : b.getLsbD (7 - k) = true
    · rw [if_pos hb, plot_hit]
      have hsame : ∀ col ∈ cols, (c.plot (x0 + k) py).fb.pixel (x0 + col) py = c.fb.pixel (x0 + col) py := by
        intro col hm
        rw [plot_pixel, if_neg]
        rintro ⟨he, -⟩
        exact hn.1 (by rwa [show k = col by omega])
      constructor
      · rintro ((h | h) | ⟨col, hm, h1, h2⟩)
        · exact .inl h
        · exact .inr ⟨k, by simp, hb, h⟩
        · exact .inr ⟨col, by simp [hm], h1, by rwa [← hsame col hm]⟩
      · rintro (h | ⟨col, hm, h1, h2⟩)
        · exact .inl (.inl h)
        · rcases List.mem_cons.mp hm with rfl | hm
          · exact .inl (.inr h2)
          · exact .inr ⟨col, hm, h1, by rwa [hsame col hm]⟩
    · rw [if_neg hb]
      simp [hb]

/-- A set bit of a row at (x, y), on the screen. -/
def InRow (x0 py : Nat) (b : Byte) (x y : Nat) : Prop :=
  x < 64 ∧ y < 32 ∧ ∃ col < 8, b.getLsbD (7 - col) = true ∧ x = x0 + col ∧ y = py

/-- A set bit of a list of rows at (x, y), on the screen. -/
def InRows (x0 py : Nat) (bs : List Byte) (x y : Nat) : Prop :=
  ∃ row, ∃ h : row < bs.length, InRow x0 (py + row) bs[row] x y

theorem inRows_cons (x0 py : Nat) (b : Byte) (bs : List Byte) (x y : Nat) :
    InRows x0 py (b :: bs) x y ↔ InRow x0 py b x y ∨ InRows x0 (py + 1) bs x y := by
  constructor
  · rintro ⟨row, h, hr⟩
    cases row with
    | zero => exact .inl hr
    | succ row => exact .inr ⟨row, by simpa using h, by rw [show py + 1 + row = py + (row + 1) by omega]; exact hr⟩
  · rintro (h | ⟨row, h, hr⟩)
    · exact ⟨0, by simp, h⟩
    · exact ⟨row + 1, by simpa using h, by rw [show py + (row + 1) = py + 1 + row by omega]; exact hr⟩

/-- A pixel is flipped by one row exactly when it is one of its set bits. -/
theorem plotRow_pixel (x0 py : Nat) (b : Byte) (c : Canvas) (x y : Nat) :
    (c.plotRow x0 py b).fb.pixel x y = true ↔ (c.fb.pixel x y = true ↔ ¬InRow x0 py b x y) := by
  rw [plotRow, plotCols_pixel _ _ _ _ List.nodup_range]
  simp [InRow, List.mem_range]

theorem plotRow_hit (x0 py : Nat) (b : Byte) (c : Canvas) :
    (c.plotRow x0 py b).hit = true ↔ c.hit = true ∨ ∃ x y, InRow x0 py b x y ∧ c.fb.pixel x y = true := by
  rw [plotRow, plotCols_hit _ _ _ _ List.nodup_range]
  refine or_congr_right ⟨?_, ?_⟩
  · rintro ⟨col, hm, hb, hp⟩
    have hon : x0 + col < 64 ∧ py < 32 := by
      by_contra h
      simp [FrameBuffer.pixel_off h] at hp
    exact ⟨x0 + col, py, ⟨hon.1, hon.2, col, List.mem_range.mp hm, hb, rfl, rfl⟩, hp⟩
  · rintro ⟨x, y, ⟨-, -, col, hc, hb, rfl, rfl⟩, hp⟩
    exact ⟨col, List.mem_range.mpr hc, hb, hp⟩

/-- The whole draw: a pixel is flipped exactly when it is a set bit of the sprite on the screen (R165). -/
theorem plotRows_pixel (x0 py : Nat) (bs : List Byte) (c : Canvas) (x y : Nat) :
    (plotRows x0 py bs c).fb.pixel x y = true ↔ (c.fb.pixel x y = true ↔ ¬InRows x0 py bs x y) := by
  induction bs generalizing py c with
  | nil => simp [plotRows, InRows]
  | cons b bs ih =>
    rw [plotRows, ih, plotRow_pixel, inRows_cons]
    have hdisj : InRow x0 py b x y → ¬InRows x0 (py + 1) bs x y := by
      rintro ⟨-, -, -, -, -, -, hy⟩ ⟨row, -, -, -, -, -, -, -, hy'⟩
      omega
    tauto

/-- The whole draw: the latch is set exactly when some position of the sprite was set before (R164, R165). -/
theorem plotRows_hit (x0 py : Nat) (bs : List Byte) (c : Canvas) :
    (plotRows x0 py bs c).hit = true ↔ c.hit = true ∨ ∃ x y, InRows x0 py bs x y ∧ c.fb.pixel x y = true := by
  induction bs generalizing py c with
  | nil => simp [plotRows, InRows]
  | cons b bs ih =>
    rw [plotRows, ih, plotRow_hit]
    have hsame : ∀ x y, InRows x0 (py + 1) bs x y →
        ((c.plotRow x0 py b).fb.pixel x y = true ↔ c.fb.pixel x y = true) := by
      rintro x y ⟨row, h, hr⟩
      have hno : ¬InRow x0 py b x y := by
        rintro ⟨-, -, -, -, -, -, hy⟩
        obtain ⟨-, -, -, -, -, -, hy'⟩ := hr
        omega
      rw [plotRow_pixel]
      tauto
    constructor
    · rintro ((h | ⟨x, y, h, hp⟩) | ⟨x, y, h, hp⟩)
      · exact .inl h
      · exact .inr ⟨x, y, (inRows_cons ..).mpr (.inl h), hp⟩
      · exact .inr ⟨x, y, (inRows_cons ..).mpr (.inr h), (hsame x y h).mp hp⟩
    · rintro (h | ⟨x, y, h, hp⟩)
      · exact .inl (.inl h)
      · rcases (inRows_cons ..).mp h with h | h
        · exact .inl (.inr ⟨x, y, h, hp⟩)
        · exact .inr ⟨x, y, h, (hsame x y h).mpr hp⟩

end Canvas

end Sys2Proof.Machine
end

