-- ==== Sys2Proof/Machine/Listing.lean ====
section
/-! DEFINITION. The assembler syntax of 30_encoding.md R83 and R84 as a listing: notation only, no rule depends on it. Each
mnemonic form is one row of R73, and a word that is no instruction is listed as `DW`. -/

namespace Sys2Proof

/-- One hexadecimal digit. -/
def hexDigit (d : Fin 16) : String :=
  ["0", "1", "2", "3", "4", "5", "6", "7", "8", "9", "A", "B", "C", "D", "E", "F"].getD d.val "0"

/-- The k low hexadecimal digits of n, most significant first. -/
def hexDigits : Nat → Nat → String
  | 0, _ => ""
  | k + 1, n => hexDigits k (n / 16) ++ hexDigit ⟨n % 16, Nat.mod_lt _ (by decide)⟩

/-- A number with its `0x` mark. -/
def hexNumber (k n : Nat) : String := "0x" ++ hexDigits k n

/-- `V0` to `VF`. -/
def regName (r : Reg) : String := "V" ++ hexDigit r

/-- `Vx, Vy`. -/
def regPair (x y : Reg) : String := regName x ++ ", " ++ regName y

/-- `Vx, byte`. -/
def regByte (x : Reg) (nn : Byte) : String := regName x ++ ", " ++ hexNumber 2 nn.toNat

/-- The assembler form of an instruction (R83). For SHR and SHL the Y operand is written. -/
def Instr.listing : Instr → String
  | .cls => "CLS"
  | .ret => "RET"
  | .jpAddr nnn => "JP " ++ hexNumber 3 nnn.toNat
  | .callAddr nnn => "CALL " ++ hexNumber 3 nnn.toNat
  | .seVxByte x nn => "SE " ++ regByte x nn
  | .sneVxByte x nn => "SNE " ++ regByte x nn
  | .seVxVy x y => "SE " ++ regPair x y
  | .ldVxByte x nn => "LD " ++ regByte x nn
  | .addVxByte x nn => "ADD " ++ regByte x nn
  | .ldVxVy x y => "LD " ++ regPair x y
  | .orVxVy x y => "OR " ++ regPair x y
  | .andVxVy x y => "AND " ++ regPair x y
  | .xorVxVy x y => "XOR " ++ regPair x y
  | .addVxVy x y => "ADD " ++ regPair x y
  | .subVxVy x y => "SUB " ++ regPair x y
  | .shrVxVy x y => "SHR " ++ regPair x y
  | .subnVxVy x y => "SUBN " ++ regPair x y
  | .shlVxVy x y => "SHL " ++ regPair x y
  | .sneVxVy x y => "SNE " ++ regPair x y
  | .ldIAddr nnn => "LD I, " ++ hexNumber 3 nnn.toNat
  | .jpV0Addr nnn => "JP V0, " ++ hexNumber 3 nnn.toNat
  | .rndVxByte x nn => "RND " ++ regByte x nn
  | .drwVxVyNibble x y n => "DRW " ++ regPair x y ++ ", " ++ hexNumber 1 n.val
  | .skpVx x => "SKP " ++ regName x
  | .sknpVx x => "SKNP " ++ regName x
  | .ldVxDT x => "LD " ++ regName x ++ ", DT"
  | .ldVxK x => "LD " ++ regName x ++ ", K"
  | .ldDTVx x => "LD DT, " ++ regName x
  | .ldSTVx x => "LD ST, " ++ regName x
  | .addIVx x => "ADD I, " ++ regName x
  | .ldFVx x => "LD F, " ++ regName x
  | .ldBVx x => "LD B, " ++ regName x
  | .ldMemIVx x => "LD [I], " ++ regName x
  | .ldVxMemI x => "LD " ++ regName x ++ ", [I]"

/-- The listing of any word: its instruction's form, or `DW` and the raw word (R83, R84). -/
def listWord (op : Word) : String :=
  match decode op with
  | .ok i => i.listing
  | .error _ => "DW " ++ hexNumber 4 op.toNat

end Sys2Proof
end

