-- ==== Sys2Proof/Tests/Slice0.lean ====
section
/-! SUPPORT. The model's own tests: the WellFormed smoke, a word of every constructor's encoding, one or two steps of every
instruction with the results that spec/95_test_vectors.md gives (its ids are cited), and for every statement with hypotheses
a state and operands that meet them. -/

namespace Sys2Proof.Tests

open Sys2Proof Sys2Proof.Machine

/-- The next state, if there is one. -/
def result : Result → Option State
  | .next t => some t
  | .fault _ => none
  | .refused _ => none

/-- One step of s with the word op at its PC. -/
def run (op : Nat) (s : State) : Option State := result (step (s.withFetchWord 16 op))

/-- Reset with some registers set. -/
def regs (l : List (Reg × Byte)) : State := l.foldl (fun s p => s.setV p.1 p.2) State.reset

/-- Registers and I. -/
def regsI (l : List (Reg × Byte)) (i : Word) : State := (regs l).setI i

/-- Reset with some keys pressed. -/
def keys (l : List (Fin 16)) : State := l.foldl (fun s k => s.setKey k true) State.reset

/-- Reset with one pixel set. -/
def lit (px py : Nat) : State := State.reset.setFb (FrameBuffer.blank.toggle px py)

/-- A stack filled up to SP = n with 0x0204. -/
def stacked (n : Fin 17) : State :=
  { State.reset with sp := n, stack := Vector.replicate 16 0x0204 }

/-! ## WellFormed smoke (R72): what the check refuses and the largest it accepts -/

theorem test_reg_16_refused : Operand.inRange (.reg 16) = false := by decide
theorem test_byte_256_refused : Operand.inRange (.byte 256) = false := by decide
theorem test_addr_4096_refused : Operand.inRange (.addr 4096) = false := by decide
theorem test_nibble_16_refused : Operand.inRange (.nibble 16) = false := by decide
theorem test_operand_list_refused : [Operand.reg 1, .reg 2, .nibble 16].all Operand.inRange = false := by decide
theorem test_largest_operands_accepted :
    [Operand.reg 15, .byte 255, .addr 4095, .nibble 15].all Operand.inRange = true := by decide
theorem test_instr_operands : (Instr.drwVxVyNibble 15 15 15).operands = [.reg 15, .reg 15, .nibble 15] := by decide

/-! ## Words written out from the patterns of 30_encoding.md R73 -/

theorem test_decode_cls : decode 0x00E0 = .ok (.cls) := by decide
theorem test_decode_ret : decode 0x00EE = .ok (.ret) := by decide
theorem test_decode_jpAddr : decode 0x1FFF = .ok (.jpAddr 0xFFF) := by decide
theorem test_decode_callAddr : decode 0x2300 = .ok (.callAddr 0x300) := by decide
theorem test_decode_seVxByte : decode 0x3A05 = .ok (.seVxByte 10 0x05) := by decide
theorem test_decode_sneVxByte : decode 0x4A05 = .ok (.sneVxByte 10 0x05) := by decide
theorem test_decode_seVxVy : decode 0x5120 = .ok (.seVxVy 1 2) := by decide
theorem test_decode_ldVxByte : decode 0x6A42 = .ok (.ldVxByte 10 0x42) := by decide
theorem test_decode_addVxByte : decode 0x7A05 = .ok (.addVxByte 10 0x05) := by decide
theorem test_decode_ldVxVy : decode 0x8120 = .ok (.ldVxVy 1 2) := by decide
theorem test_decode_orVxVy : decode 0x8121 = .ok (.orVxVy 1 2) := by decide
theorem test_decode_andVxVy : decode 0x8122 = .ok (.andVxVy 1 2) := by decide
theorem test_decode_xorVxVy : decode 0x8123 = .ok (.xorVxVy 1 2) := by decide
theorem test_decode_addVxVy : decode 0x8124 = .ok (.addVxVy 1 2) := by decide
theorem test_decode_subVxVy : decode 0x8125 = .ok (.subVxVy 1 2) := by decide
theorem test_decode_shrVxVy : decode 0x8126 = .ok (.shrVxVy 1 2) := by decide
theorem test_decode_subnVxVy : decode 0x8127 = .ok (.subnVxVy 1 2) := by decide
theorem test_decode_shlVxVy : decode 0x8ABE = .ok (.shlVxVy 10 11) := by decide
theorem test_decode_sneVxVy : decode 0x9AB0 = .ok (.sneVxVy 10 11) := by decide
theorem test_decode_ldIAddr : decode 0xA2F0 = .ok (.ldIAddr 0x2F0) := by decide
theorem test_decode_jpV0Addr : decode 0xB300 = .ok (.jpV0Addr 0x300) := by decide
theorem test_decode_rndVxByte : decode 0xC10F = .ok (.rndVxByte 1 0x0F) := by decide
theorem test_decode_drwVxVyNibble : decode 0xD015 = .ok (.drwVxVyNibble 0 1 5) := by decide
theorem test_decode_skpVx : decode 0xE39E = .ok (.skpVx 3) := by decide
theorem test_decode_sknpVx : decode 0xE0A1 = .ok (.sknpVx 0) := by decide
theorem test_decode_ldVxDT : decode 0xF307 = .ok (.ldVxDT 3) := by decide
theorem test_decode_ldVxK : decode 0xF20A = .ok (.ldVxK 2) := by decide
theorem test_decode_ldDTVx : decode 0xF115 = .ok (.ldDTVx 1) := by decide
theorem test_decode_ldSTVx : decode 0xF118 = .ok (.ldSTVx 1) := by decide
theorem test_decode_addIVx : decode 0xF11E = .ok (.addIVx 1) := by decide
theorem test_decode_ldFVx : decode 0xF129 = .ok (.ldFVx 1) := by decide
theorem test_decode_ldBVx : decode 0xF133 = .ok (.ldBVx 1) := by decide
theorem test_decode_ldMemIVx : decode 0xF355 = .ok (.ldMemIVx 3) := by decide
theorem test_decode_ldVxMemI : decode 0xFF65 = .ok (.ldVxMemI 15) := by decide
theorem test_bits_control : decode 0b0001001000101000 = .ok (.jpAddr 0x228) := by decide
theorem test_bits_alu : decode 0b1000101010110110 = .ok (.shrVxVy 10 11) := by decide
theorem test_bits_sprite : decode 0b1101000000010101 = .ok (.drwVxVyNibble 0 1 5) := by decide
theorem test_bits_memory : decode 0b1111001101010101 = .ok (.ldMemIVx 3) := by decide
theorem test_bits_keys : decode 0b1110001110100001 = .ok (.sknpVx 3) := by decide
theorem test_unrecognised_0000 : decode 0x0000 = .error .class0 := by decide
theorem test_unrecognised_00E1 : decode 0x00E1 = .error .class0 := by decide
theorem test_unrecognised_01E0 : decode 0x01E0 = .error .class0 := by decide
theorem test_unrecognised_0FEE : decode 0x0FEE = .error .class0 := by decide
theorem test_unrecognised_5121 : decode 0x5121 = .error .class5 := by decide
theorem test_unrecognised_9ABF : decode 0x9ABF = .error .class9 := by decide
theorem test_unrecognised_8AB8 : decode 0x8AB8 = .error .class8 := by decide
theorem test_unrecognised_8ABF : decode 0x8ABF = .error .class8 := by decide
theorem test_unrecognised_E39F : decode 0xE39F = .error .classE := by decide
theorem test_unrecognised_F000 : decode 0xF000 = .error .classF := by decide
theorem test_unrecognised_FFFF : decode 0xFFFF = .error .classF := by decide
theorem test_short_bytes_refused : decodeBytes [0x00] = .error .truncated := by decide
theorem test_decode_bytes_leaves_rest : decodeBytes [0xA2, 0xF0, 0x12] = .ok (.ldIAddr 0x2F0, [0x12]) := by decide
theorem test_table_word : decodeTableWord 16 0xD015 = some (.drwVxVyNibble 0 1 5) := by decide
theorem test_opcode_table_rows : opcodeTable.length = 34 := by decide
theorem test_listing : listWord 0xF033 = "LD B, V0" ∧ listWord 0x5121 = "DW 0x5121" ∧ listWord 0x8014 = "ADD V0, V1" := by decide

/-! ## One step of each instruction (95_test_vectors.md) -/

/-- S-11 -/
theorem test_cls : (run 0x00E0 ((lit 3 4).setV VF 0x07)).map (fun t => (t.fb.pixel 3 4, t.getV VF, t.pc)) = some (false, 0x07, 0x0202) := by decide
/-- P-11 shape: SP = 2 -/
theorem test_ret : (run 0x00EE (stacked 2)).map (fun t => (t.sp.val, t.pc)) = some (1, 0x0204) := by decide
/-- P-10 -/
theorem test_ret_underflow : (run 0x00EE State.reset).map (fun t => (t.pc, t.run, t.fault, t.sp.val)) = some (0x0202, .halted, .stackUnderflow, 0) := by decide
/-- P-3 -/
theorem test_jp_self : (run 0x1200 State.reset).map (fun t => t.pc) = some 0x0200 := by decide
/-- P-4 -/
theorem test_jp_odd : (run 0x1201 State.reset).map (fun t => t.pc) = some 0x0201 := by decide
/-- P-8 -/
theorem test_call_last : (run 0x2ABC (stacked 15)).map (fun t => (t.stack[15], t.sp.val, t.pc, t.run)) = some (0x0202, 16, 0x0ABC, .running) := by decide
/-- P-9 -/
theorem test_call_overflow : (run 0x2ABC (stacked 16)).map (fun t => (t.pc, t.run, t.fault, t.sp.val, t.stack[15])) = some (0x0202, .halted, .stackOverflow, 16, 0x0204) := by decide
/-- P-12 -/
theorem test_se_byte_skips : (run 0x3F00 State.reset).map (fun t => t.pc) = some 0x0204 := by decide
/-- P-13 -/
theorem test_se_byte_goes_on : (run 0x3311 (regs [(3, 0x10)])).map (fun t => t.pc) = some 0x0202 := by decide
/-- P-14 -/
theorem test_sne_byte_skips : (run 0x4311 (regs [(3, 0x10)])).map (fun t => t.pc) = some 0x0204 := by decide
/-- R107 example -/
theorem test_sne_byte_goes_on : (run 0x4A05 (regs [(10, 0x05)])).map (fun t => t.pc) = some 0x0202 := by decide
/-- P-15 -/
theorem test_se_regs_goes_on : (run 0x5120 (regs [(1, 0x01), (2, 0x02)])).map (fun t => t.pc) = some 0x0202 := by decide
/-- P-16 -/
theorem test_se_regs_same : (run 0x5110 (regs [(1, 0x77)])).map (fun t => t.pc) = some 0x0204 := by decide
/-- P-17 -/
theorem test_sne_regs_same : (run 0x9110 (regs [(1, 0x77)])).map (fun t => t.pc) = some 0x0202 := by decide
/-- R109 example -/
theorem test_sne_regs_skips : (run 0x9120 (regs [(1, 0x33), (2, 0x34)])).map (fun t => t.pc) = some 0x0204 := by decide
/-- A-1 -/
theorem test_ld_byte : (run 0x6F12 (regs [(15, 0x01)])).map (fun t => t.getV VF) = some 0x12 := by decide
/-- A-2 -/
theorem test_add_byte_no_carry : (run 0x7101 (regs [(1, 0xFF), (15, 0x01)])).map (fun t => (t.getV 1, t.getV VF)) = some (0x00, 0x01) := by decide
/-- A-3 -/
theorem test_add_byte_vf : (run 0x7FFF (regs [(15, 0x01)])).map (fun t => t.getV VF) = some 0x00 := by decide
/-- A-4 -/
theorem test_copy : (run 0x8120 (regs [(1, 0x11), (2, 0x7F)])).map (fun t => (t.getV 1, t.getV 2)) = some (0x7F, 0x7F) := by decide
/-- A-6 -/
theorem test_or : (run 0x8121 (regs [(1, 0xF0), (2, 0x0F), (15, 0x07)])).map (fun t => (t.getV 1, t.getV VF)) = some (0xFF, 0x07) := by decide
/-- A-7 -/
theorem test_and : (run 0x8122 (regs [(1, 0xF0), (2, 0x3C)])).map (fun t => t.getV 1) = some 0x30 := by decide
/-- R127 example -/
theorem test_xor : (run 0x8123 (regs [(1, 0xF0), (2, 0x3C)])).map (fun t => t.getV 1) = some 0xCC := by decide
/-- E2, sum 256 -/
theorem test_add_256 : (run 0x8124 (regs [(1, 0xFF), (2, 0x01)])).map (fun t => (t.getV 1, t.getV VF)) = some (0x00, 0x01) := by decide
/-- A-9 -/
theorem test_add_vf_addend : (run 0x81F4 (regs [(1, 0x01), (15, 0xFF)])).map (fun t => (t.getV 1, t.getV VF)) = some (0x00, 0x01) := by decide
/-- A-11 -/
theorem test_sub_equal : (run 0x8125 (regs [(1, 0x10), (2, 0x10)])).map (fun t => (t.getV 1, t.getV VF)) = some (0x00, 0x00) := by decide
/-- A-13 -/
theorem test_sub_vf : (run 0x8F05 (regs [(15, 0x05), (0, 0x03)])).map (fun t => t.getV VF) = some 0x02 := by decide
/-- A-14 -/
theorem test_shr : (run 0x8126 (regs [(1, 0x05), (2, 0xAA)])).map (fun t => (t.getV 1, t.getV VF, t.getV 2)) = some (0x02, 0x01, 0xAA) := by decide
/-- A-16 -/
theorem test_shr_vf : (run 0x8F06 (regs [(15, 0x03)])).map (fun t => t.getV VF) = some 0x01 := by decide
/-- A-17 -/
theorem test_subn : (run 0x8127 (regs [(1, 0x01), (2, 0x02)])).map (fun t => (t.getV 1, t.getV VF)) = some (0x01, 0x01) := by decide
/-- A-19 -/
theorem test_subn_wraps : (run 0x8127 (regs [(1, 0x02), (2, 0x01)])).map (fun t => (t.getV 1, t.getV VF)) = some (0xFF, 0x00) := by decide
/-- A-21 -/
theorem test_shl : (run 0x810E (regs [(1, 0x80)])).map (fun t => (t.getV 1, t.getV VF)) = some (0x00, 0x01) := by decide
/-- A-22 -/
theorem test_shl_vf : (run 0x8F0E (regs [(15, 0x81)])).map (fun t => t.getV VF) = some 0x02 := by decide
/-- M-1 -/
theorem test_ld_i : (run 0xA123 (State.reset.setI 0xFFFF)).map (fun t => t.i) = some 0x0123 := by decide
/-- P-6 -/
theorem test_jp_v0 : (run 0xBFFF (regs [(0, 0xFF)])).map (fun t => t.pc) = some 0x10FE := by decide
/-- R133: one draw, PC advanced; the byte is free -/
theorem test_rnd_draws : (run 0xC10F State.reset).map (fun t => (t.draws, t.pc)) = some (1, 0x0202) := by decide
/-- S-12 -/
theorem test_draw_clips : (run 0xD012 (((regsI [(0, 0x3F), (1, 0x1F)] 0x0300).setFb (FrameBuffer.blank.toggle 63 31)).storeBytes 0x300 [0xFF, 0xFF])).map (fun t => (t.fb.pixel 63 31, t.fb.pixel 0 0, t.getV VF)) = some (false, false, 0x01) := by decide
/-- S-8 -/
theorem test_draw_latches_vf : (run 0xDF11 ((regsI [(15, 0x0A)] 0x0300).storeBytes 0x300 [0x80])).map (fun t => (t.fb.pixel 10 0, t.fb.pixel 0 0, t.getV VF)) = some (true, false, 0x00) := by decide
/-- K-1 -/
theorem test_skp : (run 0xE09E ((keys [5]).setV 0 0x15)).map (fun t => t.pc) = some 0x0204 := by decide
/-- K-2 -/
theorem test_sknp : (run 0xE0A1 ((keys [5]).setV 0 0x05)).map (fun t => t.pc) = some 0x0202 := by decide
/-- K-3 -/
theorem test_sknp_skips : (run 0xE0A1 (regs [(0, 0x05)])).map (fun t => t.pc) = some 0x0204 := by decide
/-- K-7 -/
theorem test_ld_dt : (run 0xFF07 (State.reset.setDt 0x3C)).map (fun t => t.getV VF) = some 0x3C := by decide
/-- K-4 -/
theorem test_ld_key : (run 0xF50A (keys [3, 10])).map (fun t => (t.getV 5, t.pc)) = some (0x03, 0x0202) := by decide
/-- K-6 -/
theorem test_ld_key_waits : (run 0xF50A (regs [(5, 0x44)])).map (fun t => (t.getV 5, t.pc)) = some (0x44, 0x0200) := by decide
/-- K-8 -/
theorem test_set_dt : (run 0xF015 (State.reset.setDt 0x10)).map (fun t => t.dt) = some 0x00 := by decide
/-- K-9 -/
theorem test_set_st : (run 0xF018 (regs [(0, 0x05)])).map (fun t => t.st) = some 0x05 := by decide
/-- M-2 -/
theorem test_add_i : (run 0xF11E (regsI [(1, 0x01)] 0x0FFF)).map (fun t => (t.i, t.getV VF)) = some (0x1000, 0x00) := by decide
/-- M-3 -/
theorem test_add_i_wraps : (run 0xF11E (regsI [(1, 0x02)] 0xFFFF)).map (fun t => t.i) = some 0x0001 := by decide
/-- M-5 -/
theorem test_ld_f : (run 0xF029 (regs [(0, 0x0F)])).map (fun t => t.i) = some 0x009B := by decide
/-- M-7 -/
theorem test_ld_f_not_masked : (run 0xF029 (regs [(0, 0xFF)])).map (fun t => t.i) = some 0x054B := by decide
/-- M-11 -/
theorem test_ld_b : (run 0xF033 (regsI [(0, 0x7B)] 0x0FFF)).map (fun t => (t.memRead 0xFFF, t.memRead 0x000, t.memRead 0x001, t.i)) = some (0x01, 0x02, 0x03, 0x0FFF) := by decide
/-- M-13 -/
theorem test_store_block : (run 0xF355 (regsI [(0, 1), (1, 2), (2, 3), (3, 4)] 0x0FFE)).map (fun t => (t.memRead 0xFFE, t.memRead 0xFFF, t.memRead 0, t.memRead 1, t.memRead 2)) = some (1, 2, 3, 4, 0) := by decide
/-- M-16 -/
theorem test_load_block : (run 0xF065 ((regsI [(1, 0x55)] 0x0400).storeBytes 0x400 [0x99, 0x98])).map (fun t => (t.getV 0, t.getV 1, t.i)) = some (0x99, 0x55, 0x0400) := by decide
/-- E11 -/
theorem test_unrecognised : (run 0x5121 State.reset).map (fun t => (t.reports, t.pc, t.run)) = some ([⟨0x5121, 0x0200⟩], 0x0202, .running) := by decide
/-- P-20: a fetch at 0xFFF takes its second byte from 0x000. -/
theorem test_fetch_wraps :
    ((State.reset.setPc 0x0FFF).storeBytes 0xFFF [0x60, 0x12]).fetchWord = 0x6012 := by decide
/-- P-1, P-2. -/
theorem test_paused_and_halted :
    step (State.reset.setRun .paused) = .next (State.reset.setRun .paused) ∧
    step (State.reset.setRun .halted) = .next (State.reset.setRun .halted) := ⟨rfl, rfl⟩
/-- X-6: the first step after a reset with an empty image. -/
theorem test_first_step_of_empty_image :
    (result (step State.reset)).map (fun t => (t.reports, t.pc)) = some ([⟨0x0000, 0x0200⟩], 0x0202) := by decide
/-- X-8: glyph 0 (and glyph F, 93_implementation_defined.md G1). -/
theorem test_glyphs :
    (List.range 5).map (fun k => State.reset.memRead (0x050 + k)) = [0xF0, 0x90, 0x90, 0x90, 0xF0] ∧
    (List.range 5).map (fun k => State.reset.memRead (0x09B + k)) = [0xF0, 0x80, 0xF0, 0x80, 0x80] := by decide
/-- X-5: a reset with a 2-byte image out of a fatal halt. -/
theorem test_reset_after_fault :
    (((stacked 16).raiseFatal .stackOverflow).load [0x12, 0x00]).1 = State.reset.storeBytes 0x200 [0x12, 0x00] := by decide
/-- K-12, X-1 to X-4. -/
theorem test_host_actions :
    ((State.reset.setDt 0x05).setRun .paused).tick.dt = 0x04 ∧ State.reset.pauseToggle.run = .paused ∧
    State.reset.pauseToggle.pauseToggle.run = .running ∧ State.reset.quit.pauseToggle.run = .halted := by decide
/-- FB, ST, RUN, FAULT and the events are what the host reads (R44). -/
theorem test_outputs : State.reset.outputs = ⟨FrameBuffer.blank, 0, .running, .none, []⟩ := by decide
/-- Two events in order (R45): a tick, then a step that reads DT. -/
theorem test_tick_then_step :
    (result (runEvents [.act .tick, .step] ((State.reset.setDt 0x09).withFetchWord 16 0xF407))).map (fun t => t.getV 4)
      = some 0x08 := by decide
/-- The load result (R44, R234). -/
theorem test_load_result : HostAction.loadResult .resetUnreadable State.reset = some .programNotFound := by decide
/-- Writing what an unlisted address reads as leaves no entry (entry 4). -/
theorem test_write_keeps_canonical_form :
    (State.reset.storeBytes 0x300 [0x07, 0x00]).mem = [(0x300, 0x07)] ∧ (State.reset.memWrite 0x050 0xF0).mem = [] ∧
    Memory.wf [(0x300, 0x07), (0x300, 0x08)] = false ∧ Memory.wf [(0x050, 0xF0)] = false ∧ Memory.wf [(4096, 1)] = false := by
  decide

/-! ## States and operands that meet the hypotheses of the statements -/

/-- The reset state meets the invariant, and so serves as a witness below. -/
theorem reset_inv : Inv State.reset := ⟨rfl, by decide, by decide, by decide⟩

theorem witness_StepRunsTheDecodedInstruction :
    (State.reset.setRun .paused).run ≠ .running ∧
    let s := State.reset.withFetchWord 16 0x1FFF
    s.run = .running ∧
      decode (wordOfBytes (s.memRead s.pc.toNat) (s.memRead (s.pc.toNat + 1))) = .ok (.jpAddr 0xFFF) ∧
      (Instr.jpAddr 0xFFF).wellFormed = true := by decide
theorem witness_UnrecognisedWordIsReportedAndSkipped :
    State.reset.run = .running ∧ decode State.reset.fetchWord = .error .class0 := by decide
theorem witness_NextPcIsOneOfTheSelectedValues :
    State.reset.run = .running ∧ ∃ t, step State.reset = .next t := ⟨rfl, _, rfl⟩
theorem witness_SelfJumpStepChangesNothing :
    let s := State.reset.withFetchWord 16 0x1200
    s.run = .running ∧ s.pc.toNat = (0x200 : Addr12).toNat ∧ s.fetchWord = wordNNN 0x1 0x200 := by decide
theorem witness_KeyWaitStepChangesNothing :
    let s := State.reset.withFetchWord 16 0xFF0A
    s.run = .running ∧ s.fetchWord = wordXNN 0xF 15 0x0A ∧ ∀ k, s.keyDown k = false := by decide
theorem witness_EveryStepKeepsInvariant : Inv State.reset ∧ ∃ t, step State.reset = .next t := ⟨reset_inv, _, rfl⟩
theorem witness_EveryStepKeepsInvariant_fatal :
    let s := (stacked 16).withFetchWord 16 0x2ABC
    Inv s ∧ ∃ t, step s = .next t ∧ t.fault = .stackOverflow :=
  ⟨⟨by decide, by decide, by decide, by decide⟩, _, rfl, by decide⟩
theorem witness_EveryHostActionKeepsInvariant : Inv State.reset := reset_inv
theorem witness_EveryReachableStateMeetsInvariant : Reachable (State.reset.setKey 3 true) :=
  .act .reset (.setKey 3 true) rfl
theorem witness_CanonicalMemoriesThatReadAlikeAreEqual :
    let m : Memory := [(0x000, 0x01), (0xFFF, 0x02)]
    m.wf = true ∧ ∀ a, m.read a = (Memory.write [(0xFFF, 0x02)] 0x000 0x01).read a := ⟨by decide, fun _ => rfl⟩
theorem witness_InstructionsWriteOnlyWhatTheAccessTableSays :
    ∃ t, exec (.ldMemIVx 15) (regsI [(0, 0x77)] 0x0FFE) = .next t ∧ t.memRead 0xFFE = 0x77 := ⟨_, rfl, by decide⟩
theorem witness_InstructionsReadOnlyWhatTheAccessTableSays :
    AgreeOn (readsOf (.addVxVy 1 15) State.reset) State.reset ((State.reset.setDt 0x3C).setV 2 0x99) := by
  constructor <;> first | decide | (intros; contradiction)
/-- One step for each clause of DedicatedStateHasOnlyItsNamedWriters. -/
theorem witness_DedicatedStateHasOnlyItsNamedWriters :
    (run 0xA123 State.reset).map (fun t => decide (t.i ≠ State.reset.i)) = some true ∧
    (run 0x2300 State.reset).map (fun t => decide (t.sp ≠ State.reset.sp ∧ t.stack ≠ State.reset.stack)) = some true ∧
    (run 0xF115 (regs [(1, 0x3C)])).map (fun t => decide (t.dt ≠ 0)) = some true ∧
    (run 0xF118 (regs [(1, 0x3C)])).map (fun t => decide (t.st ≠ 0)) = some true ∧
    (run 0xF055 (regsI [(0, 0x3C)] 0x0300)).map (fun t => decide (t.memRead 0x300 ≠ 0)) = some true ∧
    (run 0x00E0 (lit 63 31)).map (fun t => decide (t.fb ≠ (lit 63 31).fb)) = some true ∧
    (run 0x00EE State.reset).map (fun t => decide (t.run ≠ .running ∧ t.fault ≠ .none)) = some true := by decide
theorem witness_VfHasOnlyItsNamedWriters :
    ∃ t, exec (.addVxVy 1 2) (regs [(1, 0xFF), (2, 0x01)]) = .next t ∧
      t.getV VF ≠ (regs [(1, 0xFF), (2, 0x01)]).getV VF := ⟨_, rfl, by decide⟩
theorem witness_StaleStackEntriesCannotBeObserved : SameButStale State.reset (stacked 0) :=
  ⟨rfl, fun k _ hk => absurd hk (Nat.not_lt_zero k)⟩
theorem witness_StaleStackEntriesCannotBeObserved_live :
    let s := stacked 15
    SameButStale s { s with stack := s.stack.set 15 0xBEEF } :=
  ⟨rfl, by decide⟩
theorem witness_DecodingAnEncodedInstructionGivesItBack : (Instr.drwVxVyNibble 15 15 15).wellFormed = true := by decide
theorem witness_DecodedInstructionEncodesToItsWord : decode 0xFF65 = .ok (.ldVxMemI 15) := by decide
theorem witness_OpcodeMapAndDecoderAgree :
    decode 0x00EE = .ok .ret ∧ (⟨"RET", 0xFFFF, 0x00EE⟩ : OpcodeRow) ∈ opcodeTable ∧
    OpcodeRow.matches ⟨"RET", 0xFFFF, 0x00EE⟩ 0x00EE = true := by decide
/-- The two clauses of 2NNN and of 00EE at their boundary values of SP. -/
theorem witness_stack_boundaries :
    (stacked 15).sp.val < 16 ∧ (stacked 16).sp.val = 16 ∧ 0 < (stacked 1).sp.val ∧ (stacked 0).sp.val = 0 := by decide
theorem witness_flag_register_clauses : (14 : Reg) ≠ VF ∧ (0 : Reg) ≠ VF := by decide
theorem witness_RandomByteIsMasked : (0x0F : Byte).getLsbD 7 = false ∧ (0x0F : Byte).getLsbD 4 = false := by decide
theorem witness_block_registers :
    (15 : Reg).val ≤ (15 : Reg).val ∧ (0 : Reg).val ≤ (0 : Reg).val ∧ (14 : Reg).val < (15 : Reg).val := by decide
theorem witness_MemoryIsPlainStorage : 0xFFF < 4096 ∧ 0xFFF ≠ 0x1000 % 4096 := by decide
theorem witness_AddressesWrapModulo4096 : (State.reset.setPc 0x0FFF).pc = 0x0FFF := by decide
/-- A store across the end of memory, and states at each of its addresses and the one before (r = X = F; r = 0 with X = 0). -/
theorem witness_FetchSeesEarlierStores :
    let s := regsI [(0, 0xE0), (1, 0x12), (15, 0x34)] 0xFFFF
    ∃ t, exec (.ldMemIVx 15) s = .next t ∧ (t.setPc (s.i + BitVec.ofNat 16 15)).mem = t.mem ∧
      (15 : Reg).val ≤ (15 : Reg).val ∧ (0 : Reg).val + 1 = (1 : Reg).val ∧ (14 : Reg).val + 1 = (15 : Reg).val ∧
      (t.setPc (s.i - 1)).pc = s.i + BitVec.ofNat 16 (0 : Reg).val - 1 ∧
      (t.setPc s.i).pc = s.i + BitVec.ofNat 16 (0 : Reg).val ∧
      (t.setPc s.i).fetchWord = 0xE012 ∧ (t.setPc (s.i - 1)).fetchWord = 0x00E0 := ⟨_, rfl, by decide⟩
/-- M-11 read back by fetches at I − 1, I, I + 1 and I + 2. -/
theorem witness_FetchSeesEarlierStores_digits :
    let s := regsI [(0, 0x7B)] 0x0FFF
    ∃ t, exec (.ldBVx 0) s = .next t ∧ (t.setPc (s.i - 1)).fetchWord = 0x0001 ∧ (t.setPc s.i).fetchWord = 0x0102 ∧
      (t.setPc (s.i + 1)).fetchWord = 0x0203 ∧ (t.setPc (s.i + 2)).fetchWord = 0x0300 := ⟨_, rfl, by decide⟩
theorem witness_StoreOrderWithinOneBlockCannotBeObserved :
    let bs : List Byte := [0x01, 0x02]
    bs.length ≤ 16 ∧ List.Perm [(0x1000, 0x02), (0xFFF, 0x01)] (bs.zipIdx.map (fun p => (0xFFF + p.2, p.1))) :=
  ⟨by decide, List.Perm.swap _ _ _⟩
/-- A sprite position and a position off the sprite, at the corner of the screen (S-12). -/
theorem witness_DrawXorsTheSpriteAndLatchesCollision :
    let s := ((regsI [(0, 0x3F), (1, 0x1F)] 0x0300).setFb (FrameBuffer.blank.toggle 63 31)).storeBytes 0x300 [0xFF]
    OnSprite s 0 1 1 63 31 ∧ s.fb.pixel 63 31 = true ∧ ¬OnSprite s 0 1 1 0 0 :=
  ⟨⟨0, 0, by decide⟩, by decide, fun ⟨_, col, _, _, _, hx, _⟩ => by
    have h63 : (63 : Nat) + col = 0 := hx.symm
    omega⟩
/-- A draw in which no position of the sprite was set. -/
theorem witness_DrawXorsTheSpriteAndLatchesCollision_none (px py : Nat)
    (_ : OnSprite (State.reset.storeBytes 0x300 [0x80]) 0 1 1 px py) :
    (State.reset.storeBytes 0x300 [0x80]).fb.pixel px py = false := by
  have hfb : (State.reset.storeBytes 0x300 [0x80]).fb = FrameBuffer.blank := by decide
  rw [hfb, FrameBuffer.pixel]
  split <;> simp [FrameBuffer.blank]
/-- The state after the first draw is itself a state between the two draws. -/
theorem witness_SecondDrawRestoresTheFramebuffer :
    (0 : Reg) ≠ VF ∧ (1 : Reg) ≠ VF ∧
    ∃ t, exec (.drwVxVyNibble 0 1 1) (regsI [] 0x0050) = .next t ∧
      ∀ row < (1 : Nibble).val, t.memRead ((regsI [] 0x0050).i.toNat + row) = (regsI [] 0x0050).memRead
        ((regsI [] 0x0050).i.toNat + row) := ⟨by decide, by decide, _, rfl, fun _ _ => rfl⟩
theorem witness_KeySkipsReadTheKeyLevel : (5 : Fin 16).val = (((keys [5]).setV 0 0x15).getV 0).toNat % 16 := by decide
theorem witness_KeyWaitTakesTheLeastPressedKey :
    ((keys [3, 10]).keyDown 3 = true ∧ ∀ j < 3, (keys [3, 10]).keyDown j = false) ∧ ∀ k, State.reset.keyDown k = false := by
  decide
/-- Both causes, in states with RUN = Running and FAULT = None. -/
theorem witness_fatal_causes :
    let s := (stacked 16).withFetchWord 16 0x2ABC
    let u := (stacked 0).withFetchWord 16 0x00EE
    (s.run = .running ∧ s.fault = .none ∧ s.sp.val = 16 ∧ decode s.fetchWord = .ok (.callAddr 0xABC)) ∧
    (u.run = .running ∧ u.fault = .none ∧ u.sp.val = 0 ∧ decode u.fetchWord = .ok .ret) := by decide
theorem witness_StackFaultsComeOnlyFromCallAndReturn :
    ∃ t, step ((stacked 16).withFetchWord 16 0x2ABC) = .next t ∧ t.fault = .stackOverflow := ⟨_, rfl, by decide⟩
theorem witness_RunStateTransitions :
    State.reset.run = .running ∧ (State.reset.setRun .paused).run = .paused ∧ State.reset.quit.run = .halted ∧
    (∃ t, Event.apply .step State.reset = .next t) ∧ ∃ t, Event.apply (.act .pauseToggle) State.reset.quit = .next t :=
  ⟨rfl, rfl, rfl, ⟨_, rfl⟩, _, rfl⟩
theorem witness_AcceptedLoadCopiesTheImage :
    ([] : List Byte).length ≤ 3584 ∧ (List.replicate 3584 (0x12 : Byte)).length ≤ 3584 :=
  ⟨Nat.zero_le _, Nat.le_of_eq List.length_replicate⟩
theorem witness_AcceptedLoadCopiesTheImage_bytes :
    1 < ([0x12, 0x00] : List Byte).length ∧ 0x1FF < 0x200 ∧ 0x200 + ([0x12, 0x00] : List Byte).length ≤ 0xFFF := by decide
theorem witness_FailedLoadHaltsTheResetState : 3585 ≤ (List.replicate 3585 (0x12 : Byte)).length :=
  Nat.le_of_eq List.length_replicate.symm
theorem witness_OnlyTheHostChangesKeys : ∃ t, step State.reset = .next t := ⟨_, rfl⟩

end Sys2Proof.Tests
end

section
/-! PROOFS. The statements of 10_state.md: what instructions write and read (R22, R23), the invariant of every run, the
transitions of RUN (R34), and stale stack entries (R29). -/

namespace Sys2Proof.Machine

/-! ## Frames (R23)

One rule per operation on the state: it stays inside a frame if the frame allows the part it writes. -/

namespace State

/-- A push that succeeds: there was room, the word is at the old SP, and SP is one higher (R28). -/
theorem push_eq_some {s u : State} {w : Word} (h : s.push w = some u) :
    ∃ hlt : s.sp.val < Config.stackDepth,
      u = { s with stack := s.stack.set s.sp.val w hlt, sp := ⟨s.sp.val + 1, Nat.succ_lt_succ hlt⟩ } := by
  by_cases hlt : s.sp.val < Config.stackDepth
  · rw [push_of_lt w hlt] at h
    exact ⟨hlt, (Option.some.inj h).symm⟩
  · simp [push, hlt] at h

/-- A pop that succeeds: there was an entry, it is the word answered, and SP is one lower (R28). -/
theorem pop_eq_some {s u : State} {w : Word} (h : s.pop = some (w, u)) :
    ∃ hpos : 0 < s.sp.val, w = s.stack[s.sp.val - 1]'(by have := s.sp.isLt; omega) ∧
      u = { s with sp := ⟨s.sp.val - 1, Nat.lt_of_le_of_lt (Nat.sub_le _ _) s.sp.isLt⟩ } := by
  by_cases hpos : 0 < s.sp.val
  · rw [pop_of_pos hpos] at h
    cases h
    exact ⟨hpos, rfl, rfl⟩
  · simp [pop, hpos] at h

end State

namespace Frame

variable {p : Parts} {s t : State}

/-- Nothing changed is inside every frame. -/
theorem refl (p : Parts) (s : State) : Frame p s s :=
  ⟨fun _ _ => rfl, fun _ => rfl, fun _ => rfl, fun _ => rfl, fun _ _ _ => rfl, fun _ => rfl, fun _ => rfl,
    fun _ _ => rfl, fun _ => rfl, fun _ => rfl, fun _ => rfl, fun _ => rfl, fun _ => rfl, fun _ => rfl⟩

theorem setV (h : Frame p s t) {r : Reg} (hr : r ∈ p.regs) (b : Byte) : Frame p s (t.setV r b) :=
  { h with
    regs := fun q hq => by
      have hne : r ≠ q := fun e => hq (e ▸ hr)
      rw [State.setV_getV, if_neg hne, h.regs q hq] }

theorem setI (h : Frame p s t) (hp : p.i = true) (w : Word) : Frame p s (t.setI w) :=
  { h with i := fun hf => nomatch hp.symm.trans hf }

theorem setPc (h : Frame p s t) (hp : p.pc = true) (w : Word) : Frame p s (t.setPc w) :=
  { h with pc := fun hf => nomatch hp.symm.trans hf }

theorem setDt (h : Frame p s t) (hp : p.dt = true) (b : Byte) : Frame p s (t.setDt b) :=
  { h with dt := fun hf => nomatch hp.symm.trans hf }

theorem setSt (h : Frame p s t) (hp : p.st = true) (b : Byte) : Frame p s (t.setSt b) :=
  { h with st := fun hf => nomatch hp.symm.trans hf }

theorem setFb (h : Frame p s t) (hp : p.fb = true) (fb : FrameBuffer) : Frame p s (t.setFb fb) :=
  { h with fb := fun hf => nomatch hp.symm.trans hf }

theorem setRun (h : Frame p s t) (hp : p.run = true) (r : RunState) : Frame p s (t.setRun r) :=
  { h with run := fun hf => nomatch hp.symm.trans hf }

theorem setKey (h : Frame p s t) (hp : p.key = true) (k : Fin Config.nkeys) (down : Bool) :
    Frame p s (State.setKey k down t) :=
  { h with key := fun hf => nomatch hp.symm.trans hf }

theorem consumeDraw (h : Frame p s t) (hp : p.draws = true) : Frame p s t.consumeDraw :=
  { h with draws := fun hf => nomatch hp.symm.trans hf }

theorem raiseFatal (h : Frame p s t) (hr : p.run = true) (hf : p.fault = true) (c : FaultCode) :
    Frame p s (State.raiseFatal c t) :=
  { h with
    run := fun hf => nomatch hr.symm.trans hf
    fault := fun hf' => nomatch hf.symm.trans hf' }

theorem setFlagThenV (h : Frame p s t) {x : Reg} (hF : VF ∈ p.regs) (hx : x ∈ p.regs) (f : Bool) (b : Byte) :
    Frame p s (t.setFlagThenV f x b) :=
  (h.setV hF _).setV hx b

theorem skipIf (h : Frame p s t) (hp : p.pc = true) (c : Bool) : Frame p s (t.skipIf c) := by
  rw [State.skipIf_eq]
  exact h.setPc hp _

theorem memWrite (h : Frame p s t) {a : Nat} (ha : ea a ∈ p.mem) (b : Byte) : Frame p s (t.memWrite a b) :=
  { h with
    mem := fun c hc => by
      have hne : ea c ≠ ea a := fun e => hc (e ▸ ha)
      rw [State.memWrite_memRead, if_neg hne, h.mem c hc] }

theorem storeBytes (h : Frame p s t) {a : Nat} {bs : List Byte} (ha : ∀ k < bs.length, ea (a + k) ∈ p.mem) :
    Frame p s (t.storeBytes a bs) := by
  induction bs generalizing a t with
  | nil => exact h
  | cons b bs ih =>
    refine ih (h.memWrite (ha 0 (Nat.succ_pos _)) b) fun k hk => ?_
    rw [Nat.add_right_comm, Nat.add_assoc]
    exact ha (k + 1) (Nat.succ_lt_succ hk)

theorem loadRegs (h : Frame p s t) (a : Nat) {rs : List Reg} (hr : ∀ r ∈ rs, r ∈ p.regs) :
    Frame p s (t.loadRegs a rs) := by
  induction rs generalizing t with
  | nil => exact h
  | cons r rs ih => exact ih (h.setV (hr r (.head _)) _) fun q hq => hr q (.tail _ hq)

theorem push (h : Frame p s t) (hsp : p.sp = true) (hst : t.sp.val ∈ p.stack) {w : Word} {u : State}
    (hu : t.push w = some u) : Frame p s u := by
  obtain ⟨hlt, rfl⟩ := State.push_eq_some hu
  exact { h with
    sp := fun hf => nomatch hsp.symm.trans hf
    stack := fun k hk hn => by
      have hne : t.sp.val ≠ k := fun e => hn (e ▸ hst)
      exact (Vector.getElem_set_ne hlt _ hne).trans (h.stack k hk hn) }

theorem pop (h : Frame p s t) (hsp : p.sp = true) {w : Word} {u : State} (hu : t.pop = some (w, u)) :
    Frame p s u := by
  obtain ⟨hpos, -, rfl⟩ := State.pop_eq_some hu
  exact { h with sp := fun hf => nomatch hsp.symm.trans hf }

/-- A stack none of whose entries may be written is the same stack. -/
theorem stack_eq (h : Frame p s t) (hp : p.stack = []) : t.stack = s.stack :=
  Vector.ext fun k hk => h.stack k hk (by simp [hp])

end Frame

/-! ## What an instruction can do

First an equation for each case of the three instructions that have two. -/

namespace State

/-- The stack is empty or has an entry to pop (R28). -/
theorem sp_empty_or_pos (s : State) : s.sp.val = 0 ∨ 0 < s.sp.val := Nat.eq_zero_or_pos _

/-- The stack is full or has room for a push (R28). -/
theorem sp_full_or_lt (s : State) : s.sp.val = Config.stackDepth ∨ s.sp.val < Config.stackDepth :=
  Nat.eq_or_lt_of_le (Nat.le_of_lt_succ s.sp.isLt)

end State

/-- 00EE on an empty stack is fatal (R203). -/
theorem exec_ret_of_empty {s : State} (h : s.sp.val = 0) : exec .ret s = .next (s.raiseFatal .stackUnderflow) := by
  rw [exec, execRet, State.pop_of_empty h]

/-- 00EE on a stack with an entry pops it into PC (R102). -/
theorem exec_ret_of_pos {s : State} (h : 0 < s.sp.val) :
    exec .ret s = .next (State.setPc
      { s with sp := ⟨s.sp.val - 1, Nat.lt_of_le_of_lt (Nat.sub_le _ _) s.sp.isLt⟩ }
      (s.stack[s.sp.val - 1]'(by have := s.sp.isLt; omega))) := by
  rw [exec, execRet, State.pop_of_pos h]

/-- 2NNN on a full stack is fatal (R202). -/
theorem exec_callAddr_of_full {s : State} (nnn : Addr12) (h : s.sp.val = Config.stackDepth) :
    exec (.callAddr nnn) s = .next (s.raiseFatal .stackOverflow) := by
  rw [exec, execCallAddr, State.push_of_full _ h]

/-- 2NNN on a stack with room pushes PC and jumps (R104). -/
theorem exec_callAddr_of_lt {s : State} (nnn : Addr12) (h : s.sp.val < Config.stackDepth) :
    exec (.callAddr nnn) s = .next (State.setPc
      { s with stack := s.stack.set s.sp.val s.pc h, sp := ⟨s.sp.val + 1, Nat.succ_lt_succ h⟩ } (zext16 nnn)) := by
  rw [exec, execCallAddr, State.push_of_lt _ h]

/-- FX0A waits while no key is pressed (R183). -/
theorem exec_ldVxK_of_none {s : State} (x : Reg) (h : s.leastKey = none) : exec (.ldVxK x) s = .next s.rewindPc := by
  rw [exec, execLdVxK, h]

/-- FX0A takes the least pressed key (R183). -/
theorem exec_ldVxK_of_some {s : State} (x : Reg) {k : Fin 16} (h : s.leastKey = some k) :
    exec (.ldVxK x) s = .next (s.setV x (byteOfKey k)) := by
  rw [exec, execLdVxK, h]

/-- Every arm of the dispatch answers a next state. -/
theorem exec_total (i : Instr) (s : State) : ∃ t, exec i s = .next t := by
  cases i with
  | ret => simp only [exec, execRet]; split <;> exact ⟨_, rfl⟩
  | callAddr nnn => simp only [exec, execCallAddr]; split <;> exact ⟨_, rfl⟩
  | ldVxK x => simp only [exec, execLdVxK]; split <;> exact ⟨_, rfl⟩
  | _ => exact ⟨_, rfl⟩

/-- The W columns of R23, for every instruction: each is made of operations on parts it may write. -/
theorem exec_frame {i : Instr} {s t : State} (h : exec i s = .next t) : Frame (writesOf i s) s t := by
  have unchanged : ∀ p, Frame p s s := fun p => .refl p s
  cases i with
  | cls => cases h; exact (unchanged _).setFb rfl _
  | ret =>
    rcases s.sp_empty_or_pos with hempty | hpos
    · rw [exec_ret_of_empty hempty] at h
      rw [writesOf, if_pos hempty]
      cases h
      exact (unchanged _).raiseFatal rfl rfl _
    · rw [exec_ret_of_pos hpos] at h
      rw [writesOf, if_neg hpos.ne']
      cases h
      exact ((unchanged _).pop rfl (State.pop_of_pos hpos)).setPc rfl _
  | callAddr nnn =>
    rcases s.sp_full_or_lt with hfull | hlt
    · rw [exec_callAddr_of_full _ hfull] at h
      rw [writesOf, if_pos hfull]
      cases h
      exact (unchanged _).raiseFatal rfl rfl _
    · rw [exec_callAddr_of_lt _ hlt] at h
      rw [writesOf, if_neg hlt.ne]
      cases h
      exact ((unchanged _).push rfl (.head _) (State.push_of_lt _ hlt)).setPc rfl _
  | jpAddr | jpV0Addr => cases h; exact (unchanged _).setPc rfl _
  | seVxByte | sneVxByte | seVxVy | sneVxVy | skpVx | sknpVx => cases h; exact (unchanged _).skipIf rfl _
  | ldVxByte | addVxByte | ldVxVy | orVxVy | andVxVy | xorVxVy | ldVxDT => cases h; exact (unchanged _).setV (.head _) _
  | addVxVy | subVxVy | shrVxVy | subnVxVy | shlVxVy =>
    cases h
    exact (unchanged _).setFlagThenV (.head _) (.tail _ (.head _)) _ _
  | ldIAddr | addIVx | ldFVx => cases h; exact (unchanged _).setI rfl _
  | rndVxByte => cases h; exact ((unchanged _).consumeDraw rfl).setV (.head _) _
  | drwVxVyNibble => cases h; exact ((unchanged _).setFb rfl _).setV (.head _) _
  | ldVxK x =>
    cases hk : s.leastKey with
    | none =>
      rw [exec_ldVxK_of_none x hk] at h
      rw [writesOf, if_pos hk]
      cases h
      exact (unchanged _).setPc rfl _
    | some k =>
      rw [exec_ldVxK_of_some x hk] at h
      rw [writesOf, if_neg (by simp [hk])]
      cases h
      exact (unchanged _).setV (.head _) _
  | ldDTVx => cases h; exact (unchanged _).setDt rfl _
  | ldSTVx => cases h; exact (unchanged _).setSt rfl _
  | ldBVx => cases h; exact (unchanged _).storeBytes fun k hk => State.mem_blockAddrs.mpr ⟨k, hk, rfl⟩
  | ldMemIVx x =>
    cases h
    exact (unchanged _).storeBytes fun k hk =>
      State.mem_blockAddrs.mpr ⟨k, by rwa [State.length_regBytes] at hk, rfl⟩
  | ldVxMemI => cases h; exact (unchanged _).loadRegs _ fun r hr => hr

/-- Settles O13, one instruction at a time, by the frame rule of each operation it is made of. -/
theorem instructionsWriteOnlyWhatTheAccessTableSays : Obligations.InstructionsWriteOnlyWhatTheAccessTableSays :=
  fun _ _ _ h => exec_frame h

/-! ## Agreement (R23)

What an operation writes is the same in two states when the values written are. -/

namespace AgreeOn

variable {s s' : State}

/-- Any two states agree on no parts at all. -/
theorem nothing (s s' : State) : AgreeOn {} s s' :=
  ⟨nofun, nofun, nofun, nofun, nofun, nofun, nofun, nofun, nofun, nofun, nofun, nofun, nofun, nofun⟩

theorem setV (x : Reg) {b b' : Byte} (h : b' = b) : AgreeOn { regs := [x] } (s.setV x b) (s'.setV x b') :=
  { nothing _ _ with
    regs := fun r hr => by
      obtain rfl := List.mem_singleton.mp hr
      simp [h] }

theorem setFlagThenV (x : Reg) {f f' : Bool} {b b' : Byte} (hf : f' = f) (hb : b' = b) :
    AgreeOn { regs := [VF, x] } (s.setFlagThenV f x b) (s'.setFlagThenV f' x b') :=
  { nothing _ _ with
    regs := fun r hr => by
      have hr : r = VF ∨ r = x := by simpa using hr
      rcases hr with rfl | rfl <;> simp [State.setFlagThenV_getV, hf, hb] }

theorem setI {w w' : Word} (h : w' = w) : AgreeOn { i := true } (s.setI w) (s'.setI w') :=
  { nothing _ _ with i := fun _ => h }

theorem setPc {w w' : Word} (h : w' = w) : AgreeOn { pc := true } (s.setPc w) (s'.setPc w') :=
  { nothing _ _ with pc := fun _ => h }

theorem skipIf {c c' : Bool} (hc : c' = c) (hpc : s'.pc = s.pc) :
    AgreeOn { pc := true } (s.skipIf c) (s'.skipIf c') := by
  rw [State.skipIf_eq, State.skipIf_eq]
  exact setPc (by rw [hc, hpc])

theorem setDt {b b' : Byte} (h : b' = b) : AgreeOn { dt := true } (s.setDt b) (s'.setDt b') :=
  { nothing _ _ with dt := fun _ => h }

theorem setSt {b b' : Byte} (h : b' = b) : AgreeOn { st := true } (s.setSt b) (s'.setSt b') :=
  { nothing _ _ with st := fun _ => h }

theorem setFb (fb : FrameBuffer) : AgreeOn { fb := true } (s.setFb fb) (s'.setFb fb) :=
  { nothing _ _ with fb := fun _ => rfl }

theorem raiseFatal (c : FaultCode) (h : s'.fault = s.fault) :
    AgreeOn { run := true, fault := true } (s.raiseFatal c) (s'.raiseFatal c) :=
  { nothing _ _ with
    run := fun _ => rfl
    fault := fun _ => by simp [h] }

/-- A stored block reads alike wherever it is stored, if it does not meet itself (R64). -/
theorem storeBytes (a : Nat) {bs : List Byte} {n : Nat} (hlen : bs.length = n) (hn : n ≤ Config.memSize) :
    AgreeOn { mem := blockAddrs a n } (s.storeBytes a bs) (s'.storeBytes a bs) :=
  { nothing _ _ with
    mem := fun c hc => by
      subst hlen
      obtain ⟨k, hk, hea⟩ := State.mem_blockAddrs.mp hc
      rw [State.memRead_congr hea, State.memRead_congr hea, State.storeBytes_memRead_on a k bs s' hn hk,
        State.storeBytes_memRead_on a k bs s hn hk] }

theorem loadRegs (a : Nat) {rs : List Reg} (h : ∀ r ∈ rs, s'.memRead (a + r.val) = s.memRead (a + r.val)) :
    AgreeOn { regs := rs } (s.loadRegs a rs) (s'.loadRegs a rs) :=
  { nothing _ _ with
    regs := fun r hr => by
      have hr : r ∈ rs := hr
      simp only [State.loadRegs_getV, hr, if_true, h r hr] }

end AgreeOn

/-- FX0A looks at the keys only. -/
theorem State.leastKey_of_key {s s' : State} (h : s'.key = s.key) : s'.leastKey = s.leastKey := by
  rw [leastKey, leastKey, show s'.keyDown = s.keyDown from funext fun k => by rw [keyDown, keyDown, h]]

/-- The R columns of R23, for every instruction: the values it writes are functions of the parts it may read. -/
theorem exec_agree {i : Instr} {s s' t t' : State} (h : AgreeOn (readsOf i s) s s') (ht : exec i s = .next t)
    (ht' : exec i s' = .next t') : AgreeOn (writesOf i s) t t' := by
  cases i with
  | cls => cases ht; cases ht'; exact .setFb _
  | ret =>
    have hsp : s'.sp = s.sp := h.sp rfl
    rcases s.sp_empty_or_pos with hempty | hpos
    · rw [exec_ret_of_empty hempty] at ht
      rw [exec_ret_of_empty (by rw [hsp, hempty])] at ht'
      rw [writesOf, if_pos hempty]
      cases ht; cases ht'
      exact .raiseFatal _ (h.fault rfl)
    · rw [exec_ret_of_pos hpos] at ht
      rw [exec_ret_of_pos (by rwa [hsp])] at ht'
      rw [writesOf, if_neg hpos.ne']
      cases ht; cases ht'
      exact { AgreeOn.nothing _ _ with
        pc := fun _ => by
          simp only [State.setPc_pc, hsp]
          exact h.stack _ _ (.head _)
        sp := fun _ => by simp only [State.setPc_sp, hsp] }
  | callAddr nnn =>
    have hsp : s'.sp = s.sp := h.sp rfl
    rcases s.sp_full_or_lt with hfull | hlt
    · rw [exec_callAddr_of_full _ hfull] at ht
      rw [exec_callAddr_of_full _ (by rw [hsp, hfull])] at ht'
      rw [writesOf, if_pos hfull]
      cases ht; cases ht'
      exact .raiseFatal _ (h.fault rfl)
    · rw [exec_callAddr_of_lt _ hlt] at ht
      rw [exec_callAddr_of_lt _ (by rwa [hsp])] at ht'
      rw [writesOf, if_neg hlt.ne]
      cases ht; cases ht'
      exact { AgreeOn.nothing _ _ with
        pc := fun _ => rfl
        sp := fun _ => by simp only [State.setPc_sp, hsp]
        stack := fun k hk hmem => by
          obtain rfl := List.mem_singleton.mp hmem
          simp [hsp, h.pc rfl] }
  | jpAddr => cases ht; cases ht'; exact .setPc rfl
  | jpV0Addr => cases ht; cases ht'; exact .setPc (by rw [h.regs 0 (.head _)])
  | seVxByte x | sneVxByte x => cases ht; cases ht'; exact .skipIf (by rw [h.regs x (.head _)]) (h.pc rfl)
  | seVxVy x y | sneVxVy x y =>
    have hx : s'.getV x = s.getV x := h.regs x (.head _)
    have hy : s'.getV y = s.getV y := h.regs y (.tail _ (.head _))
    cases ht; cases ht'
    exact .skipIf (by rw [hx, hy]) (h.pc rfl)
  | skpVx x | sknpVx x =>
    cases ht; cases ht'
    exact .skipIf (by simp only [State.keyDown, h.regs x (.head _), h.key rfl]) (h.pc rfl)
  | ldVxByte x => cases ht; cases ht'; exact .setV x rfl
  | addVxByte x => cases ht; cases ht'; exact .setV x (by rw [h.regs x (.head _)])
  | ldVxVy x y => cases ht; cases ht'; exact .setV x (h.regs y (.head _))
  | orVxVy x y | andVxVy x y | xorVxVy x y =>
    have hx : s'.getV x = s.getV x := h.regs x (.head _)
    have hy : s'.getV y = s.getV y := h.regs y (.tail _ (.head _))
    cases ht; cases ht'
    exact .setV x (by rw [hx, hy])
  | addVxVy x y | subVxVy x y | subnVxVy x y =>
    have hx : s'.getV x = s.getV x := h.regs x (.head _)
    have hy : s'.getV y = s.getV y := h.regs y (.tail _ (.head _))
    cases ht; cases ht'
    exact .setFlagThenV x (by rw [hx, hy]) (by rw [hx, hy])
  | shrVxVy x | shlVxVy x =>
    have hx : s'.getV x = s.getV x := h.regs x (.head _)
    cases ht; cases ht'
    exact .setFlagThenV x (by rw [hx]) (by rw [hx])
  | ldIAddr => cases ht; cases ht'; exact .setI rfl
  | addIVx x => cases ht; cases ht'; exact .setI (by rw [h.regs x (.head _), h.i rfl])
  | ldFVx x => cases ht; cases ht'; exact .setI (by rw [h.regs x (.head _)])
  | rndVxByte x =>
    have hd : s'.draws = s.draws := h.draws rfl
    cases ht; cases ht'
    exact { AgreeOn.setV x (by simp only [State.drawByte, hd]) with
      draws := fun _ => by simp [hd] }
  | drwVxVyNibble x y n =>
    have hx : s'.getV x = s.getV x := h.regs x (.head _)
    have hy : s'.getV y = s.getV y := h.regs y (.tail _ (.head _))
    have hi : s'.i = s.i := h.i rfl
    have hfb : s'.fb = s.fb := h.fb rfl
    have hbytes : s'.spriteBytes n.val = s.spriteBytes n.val := List.map_congr_left fun k hk => by
      rw [hi]
      exact h.mem _ (State.mem_blockAddrs.mpr ⟨k, List.mem_range.mp hk, rfl⟩)
    cases ht; cases ht'
    exact { AgreeOn.setV VF (by simp only [hx, hy, hfb, hbytes]) with
      fb := fun _ => by simp [hx, hy, hfb, hbytes] }
  | ldVxDT x => cases ht; cases ht'; exact .setV x (h.dt rfl)
  | ldVxK x =>
    have hkeys : s'.leastKey = s.leastKey := State.leastKey_of_key (h.key rfl)
    cases hk : s.leastKey with
    | none =>
      rw [exec_ldVxK_of_none x hk] at ht
      rw [exec_ldVxK_of_none x (hkeys.trans hk)] at ht'
      rw [writesOf, if_pos hk]
      cases ht; cases ht'
      exact .setPc (by rw [h.pc rfl])
    | some k =>
      rw [exec_ldVxK_of_some x hk] at ht
      rw [exec_ldVxK_of_some x (hkeys.trans hk)] at ht'
      rw [writesOf, if_neg (by simp [hk])]
      cases ht; cases ht'
      exact .setV x rfl
  | ldDTVx x => cases ht; cases ht'; exact .setDt (h.regs x (.head _))
  | ldSTVx x => cases ht; cases ht'; exact .setSt (h.regs x (.head _))
  | ldBVx x =>
    cases ht; cases ht'
    rw [h.regs x (.head _), h.i rfl]
    exact .storeBytes _ rfl (by decide)
  | ldMemIVx x =>
    have hbytes : s'.regBytes x = s.regBytes x := List.map_congr_left fun r hr => h.regs r hr
    cases ht; cases ht'
    rw [hbytes, h.i rfl]
    exact .storeBytes _ (s.length_regBytes x) (x.isLt.trans (by decide))
  | ldVxMemI x =>
    cases ht; cases ht'
    rw [h.i rfl]
    exact .loadRegs _ fun r hr =>
      h.mem _ (State.mem_blockAddrs.mpr ⟨r.val, Nat.lt_succ_of_le ((State.mem_regsUpTo x r).mp hr), rfl⟩)

/-- Settles O14: both runs answer a next state, and the two agree on what was written. -/
theorem instructionsReadOnlyWhatTheAccessTableSays : Obligations.InstructionsReadOnlyWhatTheAccessTableSays := by
  intro i s s' h
  obtain ⟨t, ht⟩ := exec_total i s
  obtain ⟨t', ht'⟩ := exec_total i s'
  exact ⟨t, t', ht, ht', exec_agree h ht ht'⟩

/-! ## Who writes which part (R22 to R35)

The W columns of R23, read part by part. -/

section Writers

variable {i : Instr} {s : State}

theorem writesOf_i (h : (writesOf i s).i = true) :
    (∃ nnn, i = .ldIAddr nnn) ∨ (∃ x, i = .addIVx x) ∨ ∃ x, i = .ldFVx x := by
  cases i <;> simp [writesOf, apply_ite Parts.i] at h ⊢

theorem writesOf_sp (h : (writesOf i s).sp = true) : i = .ret ∨ ∃ nnn, i = .callAddr nnn := by
  cases i <;> simp [writesOf, apply_ite Parts.sp] at h ⊢

theorem writesOf_stack (h : (writesOf i s).stack ≠ []) : ∃ nnn, i = .callAddr nnn := by
  cases i <;> simp [writesOf, apply_ite Parts.stack] at h ⊢

theorem writesOf_dt (h : (writesOf i s).dt = true) : ∃ x, i = .ldDTVx x := by
  cases i <;> simp [writesOf, apply_ite Parts.dt] at h ⊢

theorem writesOf_st (h : (writesOf i s).st = true) : ∃ x, i = .ldSTVx x := by
  cases i <;> simp [writesOf, apply_ite Parts.st] at h ⊢

theorem writesOf_fb (h : (writesOf i s).fb = true) : i = .cls ∨ ∃ x y n, i = .drwVxVyNibble x y n := by
  cases i <;> simp [writesOf, apply_ite Parts.fb] at h ⊢

theorem writesOf_run (h : (writesOf i s).run = true) : i = .ret ∨ ∃ nnn, i = .callAddr nnn := by
  cases i <;> simp [writesOf, apply_ite Parts.run] at h ⊢

theorem writesOf_fault (h : (writesOf i s).fault = true) : i = .ret ∨ ∃ nnn, i = .callAddr nnn := by
  cases i <;> simp [writesOf, apply_ite Parts.fault] at h ⊢

@[simp] theorem writesOf_key (i : Instr) (s : State) : (writesOf i s).key = false := by
  cases i <;> simp [writesOf, apply_ite Parts.key]

/-- The instructions whose destination registers can include VF (R22). -/
theorem VF_mem_writesOf_regs (h : VF ∈ (writesOf i s).regs) :
    (∃ x y, i = .addVxVy x y ∨ i = .subVxVy x y ∨ i = .shrVxVy x y ∨ i = .subnVxVy x y ∨ i = .shlVxVy x y) ∨
    (∃ x y n, i = .drwVxVyNibble x y n) ∨
    (∃ nn, i = .ldVxByte VF nn ∨ i = .addVxByte VF nn ∨ i = .rndVxByte VF nn) ∨
    (∃ y, i = .ldVxVy VF y ∨ i = .orVxVy VF y ∨ i = .andVxVy VF y ∨ i = .xorVxVy VF y) ∨
    i = .ldVxDT VF ∨ i = .ldVxK VF ∨ i = .ldVxMemI VF := by
  cases i with
  | ldVxMemI x =>
    have hx : x = VF := Fin.ext (Nat.le_antisymm (Nat.le_of_lt_succ x.isLt) ((State.mem_regsUpTo x VF).mp h))
    simp [hx]
  | _ => simp_all [writesOf, apply_ite Parts.regs]

end Writers

/-- Only 2NNN writes a stack entry (R28). -/
theorem exec_stack_of_not_call {i : Instr} {s t : State} (h : exec i s = .next t) (hi : ∀ nnn, i ≠ .callAddr nnn) :
    t.stack = s.stack := by
  refine (exec_frame h).stack_eq (by_contra fun hne => ?_)
  obtain ⟨nnn, hcall⟩ := writesOf_stack hne
  exact hi nnn hcall

/-- Only 00EE and 2NNN move SP (R28). -/
theorem exec_sp_of_not_ret_call {i : Instr} {s t : State} (h : exec i s = .next t) (hret : i ≠ .ret)
    (hcall : ∀ nnn, i ≠ .callAddr nnn) : t.sp = s.sp := by
  refine (exec_frame h).sp (Bool.eq_false_of_not_eq_true fun hw => ?_)
  rcases writesOf_sp hw with hi | ⟨nnn, hi⟩
  · exact hret hi
  · exact hcall nnn hi

/-- MEM is the same list unless the instruction is FX33 or FX55, which store a block of bytes (R63, R143, R144). -/
theorem exec_mem {i : Instr} {s t : State} (h : exec i s = .next t) :
    t.mem = s.mem ∨ ((∃ x, i = .ldBVx x) ∨ ∃ x, i = .ldMemIVx x) ∧ ∃ a bs, t = s.storeBytes a bs := by
  cases i with
  | ldBVx x => cases h; exact .inr ⟨.inl ⟨x, rfl⟩, _, _, rfl⟩
  | ldMemIVx x => cases h; exact .inr ⟨.inr ⟨x, rfl⟩, _, _, rfl⟩
  | ret =>
    rcases s.sp_empty_or_pos with hempty | hpos
    · rw [exec_ret_of_empty hempty] at h; cases h; exact .inl rfl
    · rw [exec_ret_of_pos hpos] at h; cases h; exact .inl rfl
  | callAddr nnn =>
    rcases s.sp_full_or_lt with hfull | hlt
    · rw [exec_callAddr_of_full _ hfull] at h; cases h; exact .inl rfl
    · rw [exec_callAddr_of_lt _ hlt] at h; cases h; exact .inl rfl
  | ldVxK x =>
    cases hk : s.leastKey with
    | none => rw [exec_ldVxK_of_none x hk] at h; cases h; exact .inl rfl
    | some k => rw [exec_ldVxK_of_some x hk] at h; cases h; exact .inl rfl
  | seVxByte | sneVxByte | seVxVy | sneVxVy | skpVx | sknpVx =>
    cases h
    rw [State.skipIf_eq]
    exact .inl rfl
  | ldVxMemI x =>
    cases h
    rw [State.loadRegs_eq]
    exact .inl rfl
  | _ => cases h; exact .inl rfl

/-- RUN and FAULT stay as they were unless the instruction is fatal, and then it does only what the fatal entry does
(R201 to R203). -/
theorem exec_run_fault {i : Instr} {s t : State} (h : exec i s = .next t) :
    (t.run = s.run ∧ t.fault = s.fault) ∨
    ∃ c, t = s.raiseFatal c ∧
      (c = .stackUnderflow ∧ s.sp.val = 0 ∨ c = .stackOverflow ∧ s.sp.val = Config.stackDepth) := by
  have hframe := exec_frame h
  by_cases hwriter : i = .ret ∨ ∃ nnn, i = .callAddr nnn
  · rcases hwriter with rfl | ⟨nnn, rfl⟩
    · rcases s.sp_empty_or_pos with hempty | hpos
      · rw [exec_ret_of_empty hempty] at h
        cases h
        exact .inr ⟨_, rfl, .inl ⟨rfl, hempty⟩⟩
      · rw [exec_ret_of_pos hpos] at h
        cases h
        exact .inl ⟨rfl, rfl⟩
    · rcases s.sp_full_or_lt with hfull | hlt
      · rw [exec_callAddr_of_full _ hfull] at h
        cases h
        exact .inr ⟨_, rfl, .inr ⟨rfl, hfull⟩⟩
      · rw [exec_callAddr_of_lt _ hlt] at h
        cases h
        exact .inl ⟨rfl, rfl⟩
  · exact .inl ⟨hframe.run (Bool.eq_false_of_not_eq_true (mt writesOf_run hwriter)),
      hframe.fault (Bool.eq_false_of_not_eq_true (mt writesOf_fault hwriter))⟩

/-- Settles O16: a changed VF is among the destination registers of R23. -/
theorem vfHasOnlyItsNamedWriters : Obligations.VfHasOnlyItsNamedWriters := by
  intro i s t h hne
  exact VF_mem_writesOf_regs (by_contra fun hnot => hne ((exec_frame h).regs VF hnot))

/-! ## The step (R100), case by case -/

theorem State.executes_iff {s : State} : s.executes = true ↔ s.run = .running := by
  simp [executes]

theorem step_of_not_running {s : State} (h : s.run ≠ .running) : step s = .next s := by
  rw [step, if_neg (mt State.executes_iff.mp h)]

theorem step_of_decode_ok {s : State} {i : Instr} (h : s.run = .running) (hd : decode s.fetchWord = .ok i) :
    step s = exec i s.advancePc := by
  rw [step, if_pos (State.executes_iff.mpr h), hd]

theorem step_of_decode_error {s : State} {e : Unrecognised} (h : s.run = .running)
    (hd : decode s.fetchWord = .error e) :
    step s = .next (s.advancePc.reportUnknown s.fetchWord s.pc) := by
  rw [step, if_pos (State.executes_iff.mpr h), hd]

/-- All a step can do: nothing outside Running; else run the decoded instruction after the fetch advance, or report the
unrecognised word (R100, R205). -/
theorem step_cases {s t : State} (h : step s = .next t) :
    (s.run ≠ .running ∧ t = s) ∨
    (s.run = .running ∧ ∃ i, decode s.fetchWord = .ok i ∧ exec i s.advancePc = .next t) ∨
    (s.run = .running ∧ ∃ e, decode s.fetchWord = .error e ∧
      t = s.advancePc.reportUnknown s.fetchWord s.pc) := by
  by_cases hrun : s.run = .running
  · cases hd : decode s.fetchWord with
    | ok i =>
      rw [step_of_decode_ok hrun hd] at h
      exact .inr (.inl ⟨hrun, i, rfl, h⟩)
    | error e =>
      rw [step_of_decode_error hrun hd] at h
      exact .inr (.inr ⟨hrun, e, rfl, (Host.Outcome.next.inj h).symm⟩)
  · rw [step_of_not_running hrun] at h
    exact .inl ⟨hrun, (Host.Outcome.next.inj h).symm⟩

/-- A part f of the state that is neither PC nor the reports changes in a step only by the decoded instruction. -/
theorem step_changed {α : Type} (f : State → α) (hadv : ∀ s : State, f s.advancePc = f s)
    (hrep : ∀ (op addr : Word) (s : State), f (s.reportUnknown op addr) = f s) {s t : State} (h : step s = .next t)
    (hne : f t ≠ f s) :
    ∃ i, decode s.fetchWord = .ok i ∧ exec i s.advancePc = .next t ∧ f t ≠ f s.advancePc := by
  rcases step_cases h with ⟨-, rfl⟩ | ⟨-, i, hd, hx⟩ | ⟨-, e, -, rfl⟩
  · exact absurd rfl hne
  · exact ⟨i, hd, hx, by rwa [hadv]⟩
  · exact absurd (by rw [hrep, hadv]) hne

/-- No instruction may write KEY, so no step changes it (R33). -/
theorem step_key {s t : State} (h : step s = .next t) : t.key = s.key := by
  by_contra hne
  obtain ⟨i, -, hx, hne⟩ := step_changed State.key (fun _ => rfl) (fun _ _ _ => rfl) h hne
  exact hne ((exec_frame hx).key (writesOf_key _ _))

/-- Settles O15: a changed part is one that R23 lets the decoded instruction write. -/
theorem dedicatedStateHasOnlyItsNamedWriters : Obligations.DedicatedStateHasOnlyItsNamedWriters := by
  intro s t h
  refine ⟨fun hne => ?_, fun hne => ?_, fun hne => ?_, fun hne => ?_, fun hne => ?_, fun hne => ?_, fun hne => ?_,
    step_key h⟩
  · obtain ⟨i, hd, hx, hne⟩ := step_changed State.i (fun _ => rfl) (fun _ _ _ => rfl) h hne
    simpa [hd] using writesOf_i (Bool.eq_true_of_not_eq_false (mt (exec_frame hx).i hne))
  · rcases hne with hne | hne
    · obtain ⟨i, hd, hx, hne⟩ := step_changed State.sp (fun _ => rfl) (fun _ _ _ => rfl) h hne
      simpa [hd] using writesOf_sp (Bool.eq_true_of_not_eq_false (mt (exec_frame hx).sp hne))
    · obtain ⟨i, hd, hx, hne⟩ := step_changed State.stack (fun _ => rfl) (fun _ _ _ => rfl) h hne
      simpa [hd] using .inr (writesOf_stack (mt (exec_frame hx).stack_eq hne))
  · obtain ⟨i, hd, hx, hne⟩ := step_changed State.dt (fun _ => rfl) (fun _ _ _ => rfl) h hne
    simpa [hd] using writesOf_dt (Bool.eq_true_of_not_eq_false (mt (exec_frame hx).dt hne))
  · obtain ⟨i, hd, hx, hne⟩ := step_changed State.st (fun _ => rfl) (fun _ _ _ => rfl) h hne
    simpa [hd] using writesOf_st (Bool.eq_true_of_not_eq_false (mt (exec_frame hx).st hne))
  · obtain ⟨i, hd, hx, hne⟩ := step_changed State.mem (fun _ => rfl) (fun _ _ _ => rfl) h hne
    simpa [hd] using ((exec_mem hx).resolve_left hne).1
  · obtain ⟨i, hd, hx, hne⟩ := step_changed State.fb (fun _ => rfl) (fun _ _ _ => rfl) h hne
    simpa [hd] using writesOf_fb (Bool.eq_true_of_not_eq_false (mt (exec_frame hx).fb hne))
  · rcases hne with hne | hne
    · obtain ⟨i, hd, hx, hne⟩ := step_changed State.run (fun _ => rfl) (fun _ _ _ => rfl) h hne
      simpa [hd] using writesOf_run (Bool.eq_true_of_not_eq_false (mt (exec_frame hx).run hne))
    · obtain ⟨i, hd, hx, hne⟩ := step_changed State.fault (fun _ => rfl) (fun _ _ _ => rfl) h hne
      simpa [hd] using writesOf_fault (Bool.eq_true_of_not_eq_false (mt (exec_frame hx).fault hne))

/-- Settles O60: the host sets one key, and no instruction may write KEY. -/
theorem onlyTheHostChangesKeys : Obligations.OnlyTheHostChangesKeys := by
  refine ⟨fun s k j down => ⟨?_, (Frame.refl _ s).setKey rfl k down⟩, fun s t h => step_key h⟩
  rw [State.setKey_keyDown]
  exact if_congr eq_comm rfl rfl

/-! ## RUN (R34) -/

/-- A step leaves RUN as it was, or halts a running block (R34, R201). -/
theorem step_run {s t : State} (h : step s = .next t) : t.run = s.run ∨ (s.run = .running ∧ t.run = .halted) := by
  rcases step_cases h with ⟨-, rfl⟩ | ⟨hrun, i, -, hx⟩ | ⟨-, e, -, rfl⟩
  · exact .inl rfl
  · rcases exec_run_fault hx with ⟨hkeep, -⟩ | ⟨c, rfl, -⟩
    · exact .inl hkeep
    · exact .inr ⟨hrun, rfl⟩
  · exact .inl rfl

/-- A host action other than a reset leaves a halted block halted (R34); a reset whose image cannot be read halts it
again (R234). -/
theorem apply_run_of_halted {s : State} (h : s.run = .halted) (a : HostAction) :
    (a.apply s).run = .halted ∨ ∃ image, a = .reset image := by
  cases a with
  | reset image => exact .inr ⟨image, rfl⟩
  | resetUnreadable => exact .inl rfl
  | tick | setKey => exact .inl h
  | pauseToggle =>
    refine .inl ?_
    simp only [HostAction.apply, State.pauseToggle_run, h, RunState.toggled]
  | quit => exact .inl rfl

/-- Settles O55: a step changes RUN only by the fatal entry, and the host actions by their definition. -/
theorem runStateTransitions : Obligations.RunStateTransitions := by
  refine ⟨fun s t h => step_run h, fun s => ?_, fun s t e hhalted h => ?_⟩
  · have htoggle : s.pauseToggle.run = s.run.toggled := s.pauseToggle_run
    refine ⟨fun hrun => ?_, fun hrun => ?_, fun hrun => ?_, s.quit_run, (Frame.refl _ s).setRun rfl _,
      (Frame.refl _ s).setRun rfl _⟩ <;> rw [htoggle, hrun, RunState.toggled]
  · cases e with
    | step =>
      rcases step_run h with hkeep | ⟨hrun, -⟩
      · exact .inl (hkeep.trans hhalted)
      · exact nomatch hhalted.symm.trans hrun
    | act a =>
      cases h
      simpa using apply_run_of_halted hhalted a

/-! ## The invariant (R35, R201 to R203, entry 4) -/

/-- Stores keep the invariant: MEM stays canonical and they touch nothing else. -/
theorem storeBytes_inv {s : State} (h : Inv s) (a : Nat) (bs : List Byte) : Inv (s.storeBytes a bs) := by
  have hmem := State.storeBytes_wf h.memory a bs
  rw [State.storeBytes_eq]
  exact { h with memory := hmem }

/-- A state that holds no fault meets the invariant as soon as its memory is canonical. -/
theorem inv_of_no_fault {s : State} (hmem : s.mem.wf = true) (hnone : s.fault = .none) : Inv s where
  memory := hmem
  halted hf := absurd hnone hf
  overflow hf := nomatch hnone.symm.trans hf
  underflow hf := nomatch hnone.symm.trans hf

/-- Every instruction keeps memory canonical: it stores blocks or leaves MEM alone. -/
theorem exec_wf {i : Instr} {s t : State} (hmem : s.mem.wf = true) (h : exec i s = .next t) : t.mem.wf = true := by
  rcases exec_mem h with hkeep | ⟨-, a, bs, rfl⟩
  · rwa [hkeep]
  · exact State.storeBytes_wf hmem a bs

/-- The fatal entry from a state without a fault records the cause it is given (R201). -/
theorem raiseFatal_inv {s : State} {c : FaultCode} (hmem : s.mem.wf = true) (hnone : s.fault = .none)
    (hc : c = .stackUnderflow ∧ s.sp.val = 0 ∨ c = .stackOverflow ∧ s.sp.val = Config.stackDepth) :
    Inv (s.raiseFatal c) := by
  have hfault : (s.raiseFatal c).fault = c := by rw [State.raiseFatal_fault, if_pos hnone]
  refine ⟨hmem, fun _ => rfl, fun hover => ?_, fun hunder => ?_⟩
  · rcases hc with ⟨rfl, -⟩ | ⟨-, hfull⟩
    · exact nomatch hfault.symm.trans hover
    · exact hfull
  · rcases hc with ⟨-, hempty⟩ | ⟨rfl, -⟩
    · exact hempty
    · exact nomatch hfault.symm.trans hunder

/-- An instruction that runs without a fault recorded keeps the invariant. -/
theorem exec_inv {i : Instr} {s t : State} (hmem : s.mem.wf = true) (hnone : s.fault = .none)
    (h : exec i s = .next t) : Inv t := by
  rcases exec_run_fault h with ⟨-, hkeep⟩ | ⟨c, rfl, hc⟩
  · exact inv_of_no_fault (exec_wf hmem h) (hkeep.trans hnone)
  · exact raiseFatal_inv hmem hnone hc

/-- A block that runs has no fault recorded. -/
theorem Inv.no_fault_of_running {s : State} (h : Inv s) (hrun : s.run = .running) : s.fault = .none :=
  by_contra fun hf => nomatch hrun.symm.trans (h.halted hf)

/-- A step starts with no fault recorded, so what it runs keeps the invariant. -/
theorem step_inv {s t : State} (hinv : Inv s) (h : step s = .next t) : Inv t := by
  rcases step_cases h with ⟨-, rfl⟩ | ⟨hrun, i, -, hx⟩ | ⟨hrun, e, -, rfl⟩
  · exact hinv
  · exact exec_inv (s := s.advancePc) hinv.memory (hinv.no_fault_of_running hrun) hx
  · exact inv_of_no_fault hinv.memory (hinv.no_fault_of_running hrun)

/-- Settles O9, by the cases of a step. -/
theorem everyStepKeepsInvariant : Obligations.EveryStepKeepsInvariant :=
  fun _ _ => step_inv

/-- A new life of the machine has reset's memory and no fault. -/
theorem renewed_inv (s : State) : Inv s.renewed := inv_of_no_fault Memory.wf_nil rfl

theorem failedLoad_inv (s : State) : Inv s.failedLoad := inv_of_no_fault Memory.wf_nil rfl

/-- A load builds the state anew, whatever the image (R230, R233). -/
theorem load_inv (image : List Byte) (s : State) : Inv (s.load image).1 := by
  unfold State.load
  split
  · exact storeBytes_inv (renewed_inv s) _ _
  · exact failedLoad_inv s

/-- A host action builds the state anew, or touches at most RUN of what the invariant speaks of. -/
theorem apply_inv (a : HostAction) {s : State} (h : Inv s) : Inv (a.apply s) := by
  cases a with
  | reset image => exact load_inv image s
  | resetUnreadable => exact failedLoad_inv s
  | tick | setKey => exact { h with }
  | pauseToggle =>
    exact { h with
      halted := fun hf => by
        rw [HostAction.apply, State.pauseToggle_run, h.halted hf, RunState.toggled] }
  | quit => exact { h with halted := fun _ => rfl }

/-- Settles O10, by cases on the action. -/
theorem everyHostActionKeepsInvariant : Obligations.EveryHostActionKeepsInvariant :=
  fun a _ => apply_inv a

/-- Settles O11, by induction on the run. -/
theorem everyReachableStateMeetsInvariant : Obligations.EveryReachableStateMeetsInvariant := by
  intro s hs
  induction hs with
  | reset => exact inv_of_no_fault Memory.wf_nil rfl
  | step _ h ih => exact step_inv ih h
  | act _ a _ ih => exact apply_inv a ih

/-! ## Stale stack entries (R29) -/

/-- The state with another call stack; SP stays. -/
def State.withStack (s : State) (st : Vector Word Config.stackDepth) : State := { s with stack := st }

theorem storeBytes_withStack (a : Nat) (bs : List Byte) (s : State) (st : Vector Word Config.stackDepth) :
    (s.withStack st).storeBytes a bs = (s.storeBytes a bs).withStack st := by
  induction bs generalizing a s with
  | nil => rfl
  | cons b bs ih => exact ih (a + 1) (s.memWrite a b)

theorem loadRegs_withStack (a : Nat) (rs : List Reg) (s : State) (st : Vector Word Config.stackDepth) :
    (s.withStack st).loadRegs a rs = (s.loadRegs a rs).withStack st := by
  induction rs generalizing s with
  | nil => rfl
  | cons r rs ih => exact ih (s.setV r (s.memRead (a + r.val)))

/-- Every instruction but 00EE and 2NNN neither looks at the stack nor touches it. -/
theorem exec_withStack {i : Instr} {s t : State} (h : exec i s = .next t) (hret : i ≠ .ret)
    (hcall : ∀ nnn, i ≠ .callAddr nnn) (st : Vector Word Config.stackDepth) :
    exec i (s.withStack st) = .next (t.withStack st) := by
  cases i with
  | ret => exact absurd rfl hret
  | callAddr nnn => exact absurd rfl (hcall nnn)
  | seVxByte | sneVxByte | seVxVy | sneVxVy | skpVx | sknpVx =>
    cases h
    rw [State.skipIf_eq]
    exact congrArg _ (State.skipIf_eq _ _)
  | ldVxK x =>
    cases hk : s.leastKey with
    | none =>
      rw [exec_ldVxK_of_none x hk] at h
      cases h
      exact exec_ldVxK_of_none x hk
    | some k =>
      rw [exec_ldVxK_of_some x hk] at h
      cases h
      exact exec_ldVxK_of_some x hk
  | ldBVx | ldMemIVx => cases h; exact congrArg _ (storeBytes_withStack _ _ s st)
  | ldVxMemI => cases h; exact congrArg _ (loadRegs_withStack _ _ s st)
  | _ => cases h; rfl

/-- The two states are one state with two stacks that agree below SP. -/
theorem SameButStale.iff_withStack {s s' : State} : SameButStale s s' ↔
    ∃ st : Vector Word Config.stackDepth, s' = s.withStack st ∧
      ∀ k (h : k < Config.stackDepth), k < s.sp.val → st[k] = s.stack[k] := by
  constructor
  · exact fun ⟨rest, live⟩ => ⟨s'.stack, rest, live⟩
  · rintro ⟨st, rfl, live⟩
    exact ⟨rfl, live⟩

/-- 00EE pops an entry below SP, which is live. -/
theorem exec_ret_sameButStale {s s' : State} (h : SameButStale s s') :
    ∃ t t', exec .ret s = .next t ∧ exec .ret s' = .next t' ∧ SameButStale t t' := by
  obtain ⟨st, rfl, live⟩ := SameButStale.iff_withStack.mp h
  rcases s.sp_empty_or_pos with hempty | hpos
  · exact ⟨_, _, exec_ret_of_empty hempty, exec_ret_of_empty (s := s.withStack st) hempty, rfl, live⟩
  · have htop := live (s.sp.val - 1) (by have := s.sp.isLt; omega) (by omega)
    refine ⟨_, _, exec_ret_of_pos hpos, exec_ret_of_pos (s := s.withStack st) hpos, ?_, fun k hk hlt => ?_⟩
    · simp only [State.withStack, State.setPc, htop]
    · exact live k hk (Nat.lt_of_lt_of_le hlt (Nat.sub_le _ _))

/-- 2NNN writes the entry at SP before that entry becomes live. -/
theorem exec_callAddr_sameButStale (nnn : Addr12) {s s' : State} (h : SameButStale s s') :
    ∃ t t', exec (.callAddr nnn) s = .next t ∧ exec (.callAddr nnn) s' = .next t' ∧ SameButStale t t' := by
  obtain ⟨st, rfl, live⟩ := SameButStale.iff_withStack.mp h
  rcases s.sp_full_or_lt with hfull | hlt
  · exact ⟨_, _, exec_callAddr_of_full nnn hfull, exec_callAddr_of_full (s := s.withStack st) nnn hfull, rfl, live⟩
  · refine ⟨_, _, exec_callAddr_of_lt nnn hlt, exec_callAddr_of_lt (s := s.withStack st) nnn hlt, rfl,
      fun k hk hk' => ?_⟩
    have hk' : k < s.sp.val + 1 := hk'
    simp only [State.withStack, State.setPc, Vector.getElem_set]
    split
    · rfl
    · exact live k hk (by omega)

/-- No instruction brings a stale entry to light. -/
theorem exec_sameButStale (i : Instr) {s s' : State} (h : SameButStale s s') :
    ∃ t t', exec i s = .next t ∧ exec i s' = .next t' ∧ SameButStale t t' := by
  by_cases hret : i = .ret
  · exact hret ▸ exec_ret_sameButStale h
  by_cases hcall : ∃ nnn, i = .callAddr nnn
  · obtain ⟨nnn, rfl⟩ := hcall
    exact exec_callAddr_sameButStale nnn h
  · have hcall : ∀ nnn, i ≠ .callAddr nnn := not_exists.mp hcall
    obtain ⟨st, rfl, live⟩ := SameButStale.iff_withStack.mp h
    obtain ⟨t, ht⟩ := exec_total i s
    refine ⟨t, _, ht, exec_withStack ht hret hcall st, rfl, ?_⟩
    rw [exec_sp_of_not_ret_call ht hret hcall, exec_stack_of_not_call ht hcall]
    exact live

/-- The same for a whole step: the fetched word does not depend on the stack. -/
theorem step_sameButStale {s s' : State} (h : SameButStale s s') :
    ∃ t t', step s = .next t ∧ step s' = .next t' ∧ SameButStale t t' := by
  obtain ⟨st, rfl, live⟩ := SameButStale.iff_withStack.mp h
  by_cases hrun : s.run = .running
  · cases hd : decode s.fetchWord with
    | ok i =>
      have hadv : SameButStale s.advancePc (s.withStack st).advancePc := ⟨rfl, live⟩
      obtain ⟨t, t', ht, ht', htt⟩ := exec_sameButStale i hadv
      exact ⟨t, t', (step_of_decode_ok hrun hd).trans ht,
        (step_of_decode_ok (s := s.withStack st) hrun hd).trans ht', htt⟩
    | error e =>
      exact ⟨_, _, step_of_decode_error hrun hd, step_of_decode_error (s := s.withStack st) hrun hd, rfl, live⟩
  · exact ⟨_, _, step_of_not_running hrun, step_of_not_running (s := s.withStack st) hrun, h⟩

/-- Settles O17: the fetch does not look at the stack, and no instruction looks at or above SP. -/
theorem staleStackEntriesCannotBeObserved : Obligations.StaleStackEntriesCannotBeObserved :=
  fun _ _ => step_sameButStale

end Sys2Proof.Machine
end

section
/-! PROOFS. The statements of 20_memory.md: the canonical form is unique (entry 4), every byte is plain storage at its
address modulo 4096 (R53, R58), and the fetch reads the stored bytes, most significant first (R52, R62). -/

namespace Sys2Proof.Machine

/-! ## The canonical form is unique (entry 4) -/

namespace Memory

/-- An entry shows in what the list reads as, so a list that reads the same there cannot start above it. -/
theorem wfFrom_bound_le_key {lo lo' k : Nat} {b : Byte} {m m' : Memory} (hm : wfFrom lo ((k, b) :: m) = true)
    (hm' : wfFrom lo' m' = true) (h : read ((k, b) :: m) k = m'.read k) : lo' ≤ k := by
  obtain ⟨-, -, hb, -⟩ := (wfFrom_cons ..).mp hm
  by_contra hlt
  rw [read, if_pos rfl, read_below hm' (by omega)] at h
  exact hb h

/-- The bound of a canonical list can be raised to its first address. -/
theorem wfFrom_key {lo k : Nat} {b : Byte} {m : Memory} (hm : wfFrom lo ((k, b) :: m) = true) :
    wfFrom k ((k, b) :: m) = true := by
  rw [wfFrom_cons] at hm ⊢
  exact ⟨le_rfl, hm.2⟩

/-- Lists that read alike have tails that read alike, when their first addresses agree. -/
theorem read_tail_eq {k : Nat} {b b' : Byte} {m m' : Memory} (hm : wfFrom (k + 1) m = true)
    (hm' : wfFrom (k + 1) m' = true) (h : ∀ a, read ((k, b) :: m) a = read ((k, b') :: m') a) (a : Nat) :
    m.read a = m'.read a := by
  by_cases ha : k = a
  · rw [read_below hm (by omega), read_below hm' (by omega)]
  · simpa only [read, if_neg ha] using h a

/-- Lists canonical from some bound are determined by what they read as. -/
theorem eq_of_read_eq {lo lo' : Nat} {m m' : Memory} (hm : wfFrom lo m = true) (hm' : wfFrom lo' m' = true)
    (h : ∀ a, m.read a = m'.read a) : m = m' := by
  induction m generalizing lo lo' m' with
  | nil =>
    cases m' with
    | nil => rfl
    | cons e' m' =>
      have hle : e'.1 + 1 ≤ e'.1 := wfFrom_bound_le_key hm' (m' := []) rfl (h _).symm
      omega
  | cons e m ih =>
    obtain ⟨k, b⟩ := e
    cases m' with
    | nil =>
      have hle : k + 1 ≤ k := wfFrom_bound_le_key hm (m' := []) rfl (h k)
      omega
    | cons e' m' =>
      obtain ⟨k', b'⟩ := e'
      obtain rfl : k = k' := le_antisymm
        (wfFrom_bound_le_key hm' (wfFrom_key hm) (h k').symm)
        (wfFrom_bound_le_key hm (wfFrom_key hm') (h k))
      obtain rfl : b = b' := by simpa [read] using h k
      obtain ⟨-, -, -, htail⟩ := (wfFrom_cons ..).mp hm
      obtain ⟨-, -, -, htail'⟩ := (wfFrom_cons ..).mp hm'
      rw [ih htail htail' (read_tail_eq htail htail' h)]

end Memory

/-- Settles O12, by induction on one list: a first entry of either shows as the first entry of the other. -/
theorem canonicalMemoriesThatReadAlikeAreEqual : Obligations.CanonicalMemoriesThatReadAlikeAreEqual :=
  fun _ _ => Memory.eq_of_read_eq

/-! ## Plain storage, modulo 4096 (R53, R58) -/

/-- An effective address is its own effective address (R53). -/
@[simp] theorem ea_ea (a : Nat) : ea (ea a) = ea a := Nat.mod_mod _ _

/-- An address below MEM_SIZE is its own effective address (R53). -/
theorem ea_of_lt {a : Nat} (h : a < Config.memSize) : ea a = a := Nat.mod_eq_of_lt h

/-- A write looks only at the effective address (R53). -/
theorem State.memWrite_congr {a c : Nat} (h : ea a = ea c) (s : State) (b : Byte) : s.memWrite a b = s.memWrite c b := by
  rw [memWrite, h, memWrite]

/-- Settles O42, by the rule for a read after a write. -/
theorem memoryIsPlainStorage : Obligations.MemoryIsPlainStorage := by
  refine fun s a b => ⟨by simp, fun c hc hne => ?_⟩
  have hea : ea c ≠ ea a := (ea_of_lt hc).trans_ne hne
  rw [State.memWrite_memRead, if_neg hea]

/-! ## The fetch (R52, R53) -/

namespace State

/-- The high byte of a fetch is the byte at PC (R52). -/
@[simp] theorem highByte_fetchWord (s : State) : highByte s.fetchWord = s.memRead s.pc.toNat :=
  highByte_wordOfBytes _ _

/-- The low byte of a fetch is the byte at PC + 1 (R52). -/
@[simp] theorem lowByte_fetchWord (s : State) : lowByte s.fetchWord = s.memRead (s.pc.toNat + 1) :=
  lowByte_wordOfBytes _ _

/-- A fetch looks only at MEM and at the effective address of PC (R53). -/
theorem fetchWord_congr {s t : State} (hmem : s.mem = t.mem) (hpc : ea s.pc.toNat = ea t.pc.toNat) :
    s.fetchWord = t.fetchWord := by
  have hnext : ea (s.pc.toNat + 1) = ea (t.pc.toNat + 1) := by rw [ea_add, hpc, ← ea_add]
  rw [fetchWord, fetchWord, memRead_of_mem hmem, memRead_of_mem hmem, memRead_congr hpc, memRead_congr hnext]

end State

/-- Settles O1: the value of a word of two bytes. -/
theorem fetchIsBigEndian : Obligations.FetchIsBigEndian :=
  fun _ => toNat_wordOfBytes _ _

/-- Settles O43: reads, writes and the fetch look only at effective addresses. -/
theorem addressesWrapModulo4096 : Obligations.AddressesWrapModulo4096 := by
  intro s a b
  have hea : ea a = ea (a % 4096) := (ea_ea a).symm
  have hpc : ea (s.pc + 0x1000).toNat = ea s.pc.toNat :=
    (ea_toNat_add s.pc 0x1000).trans (Nat.add_mod_right _ _)
  refine ⟨State.memRead_congr hea s, State.memWrite_congr hea s b, State.fetchWord_congr rfl hpc, fun hlast => ?_⟩
  rw [State.fetchWord, hlast]
  exact congrArg _ (State.memRead_congr rfl s)

/-! ## A fetch of stored bytes (R62)

The state u fetches later: all that is asked of it is that its memory is still as the store of bs at w left it. -/

section Stored

variable {s u : State} {w : Word} {bs : List Byte} {k l : Nat}

/-- A stored byte is read at every address that names its place. -/
theorem memRead_of_stored (hmem : u.mem = (s.storeBytes w.toNat bs).mem) (hlen : bs.length ≤ Config.memSize)
    (hk : k < bs.length) {c : Nat} (hc : ea c = ea (w + BitVec.ofNat 16 k).toNat) : u.memRead c = bs[k] := by
  rw [State.memRead_of_mem hmem, State.memRead_congr (hc.trans (ea_toNat_add w k)),
    State.storeBytes_memRead_on _ k bs s hlen hk]

/-- A fetch at a stored byte's address has it as its high byte. -/
theorem highByte_fetchWord_of_stored (hmem : u.mem = (s.storeBytes w.toNat bs).mem)
    (hlen : bs.length ≤ Config.memSize) (hk : k < bs.length) (hpc : u.pc = w + BitVec.ofNat 16 k) :
    highByte u.fetchWord = bs[k] := by
  rw [State.highByte_fetchWord, memRead_of_stored hmem hlen hk (by rw [hpc])]

/-- A fetch at the address before a stored byte has it as its low byte. -/
theorem lowByte_fetchWord_of_stored (hmem : u.mem = (s.storeBytes w.toNat bs).mem)
    (hlen : bs.length ≤ Config.memSize) (hk : k < bs.length) (hpc : u.pc = w + BitVec.ofNat 16 k - 1) :
    lowByte u.fetchWord = bs[k] := by
  rw [State.lowByte_fetchWord, memRead_of_stored hmem hlen hk (by rw [hpc, ea_toNat_pred])]

/-- A fetch at the first of two stored neighbours reads both. -/
theorem fetchWord_of_stored (hmem : u.mem = (s.storeBytes w.toNat bs).mem) (hlen : bs.length ≤ Config.memSize)
    (hl : l < bs.length) (hkl : k + 1 = l) (hpc : u.pc = w + BitVec.ofNat 16 k) :
    u.fetchWord = wordOfBytes bs[k] bs[l] := by
  have hpred : u.pc = w + BitVec.ofNat 16 l - 1 := by
    rw [hpc, ← hkl, BitVec.ofNat_add, ← BitVec.add_assoc]
    exact (BitVec.add_sub_cancel _ _).symm
  rw [← wordOfBytes_split u.fetchWord, highByte_fetchWord_of_stored hmem hlen (by omega) hpc,
    lowByte_fetchWord_of_stored hmem hlen hl hpred]

end Stored

@[simp] theorem length_bcdDigits (v : Byte) : (bcdDigits v).length = 3 := by simp [bcdDigits]

/-- The three decimal digits of a byte fit in bytes (R143). -/
theorem toNat_bcdDigits (v : Byte) : (bcdDigits v)[0].toNat = v.toNat / 100 ∧
    (bcdDigits v)[1].toNat = v.toNat / 10 % 10 ∧ (bcdDigits v)[2].toNat = v.toNat % 10 := by
  have := v.isLt
  refine ⟨?_, ?_, ?_⟩ <;> exact Nat.mod_eq_of_lt (by omega)

/-- After FX55, fetches see the registers stored (R62, R144). -/
theorem fetch_of_storedRegs {s u : State} {x : Reg} (hmem : u.mem = (s.storeBytes s.i.toNat (s.regBytes x)).mem) :
    (∀ r : Reg, r.val ≤ x.val →
      (u.pc = s.i + BitVec.ofNat 16 r.val → highByte u.fetchWord = s.getV r) ∧
      (u.pc = s.i + BitVec.ofNat 16 r.val - 1 → lowByte u.fetchWord = s.getV r)) ∧
    (∀ r r' : Reg, r.val + 1 = r'.val → r'.val ≤ x.val → u.pc = s.i + BitVec.ofNat 16 r.val →
      u.fetchWord = wordOfBytes (s.getV r) (s.getV r')) := by
  have hlen : (s.regBytes x).length ≤ Config.memSize := by
    rw [State.length_regBytes]
    exact x.isLt.trans (by decide)
  have hk : ∀ {r : Reg}, r.val ≤ x.val → r.val < (s.regBytes x).length := fun hr => by
    rw [State.length_regBytes]
    exact Nat.lt_succ_of_le hr
  refine ⟨fun r hr => ⟨fun hpc => ?_, fun hpc => ?_⟩, fun r r' hnext hr' hpc => ?_⟩
  · rw [highByte_fetchWord_of_stored hmem hlen (hk hr) hpc, State.getElem_regBytes s x r hr]
  · rw [lowByte_fetchWord_of_stored hmem hlen (hk hr) hpc, State.getElem_regBytes s x r hr]
  · rw [fetchWord_of_stored hmem hlen (hk hr') hnext hpc, State.getElem_regBytes s x r (by omega),
      State.getElem_regBytes s x r' hr']

/-- After FX33, fetches see the decimal digits stored (R62, R143). -/
theorem fetch_of_storedDigits {s u : State} {v : Byte} (hmem : u.mem = (s.storeBytes s.i.toNat (bcdDigits v)).mem) :
    (u.pc = s.i - 1 → (lowByte u.fetchWord).toNat = v.toNat / 100) ∧
    (u.pc = s.i → u.fetchWord.toNat = 256 * (v.toNat / 100) + v.toNat / 10 % 10) ∧
    (u.pc = s.i + 1 → u.fetchWord.toNat = 256 * (v.toNat / 10 % 10) + v.toNat % 10) ∧
    (u.pc = s.i + 2 → (highByte u.fetchWord).toNat = v.toNat % 10) := by
  have hlen : (bcdDigits v).length ≤ Config.memSize := by rw [length_bcdDigits]; decide
  have hk : ∀ k < 3, k < (bcdDigits v).length := fun k hk => by rwa [length_bcdDigits]
  have hzero : s.i + BitVec.ofNat 16 0 = s.i := BitVec.add_zero _
  obtain ⟨hundreds, tens, units⟩ := toNat_bcdDigits v
  refine ⟨fun hpc => ?_, fun hpc => ?_, fun hpc => ?_, fun hpc => ?_⟩
  · rw [lowByte_fetchWord_of_stored hmem hlen (hk 0 (by decide)) (by rw [hpc, hzero]), hundreds]
  · rw [fetchWord_of_stored hmem hlen (hk 1 (by decide)) rfl (by rw [hpc, hzero]), toNat_wordOfBytes, hundreds, tens]
  · rw [fetchWord_of_stored hmem hlen (hk 2 (by decide)) rfl hpc, toNat_wordOfBytes, tens, units]
  · rw [highByte_fetchWord_of_stored hmem hlen (hk 2 (by decide)) hpc, units]

/-- Settles O44: both instructions store one block from I. -/
theorem fetchSeesEarlierStores : Obligations.FetchSeesEarlierStores :=
  fun _ _ => ⟨⟨_, rfl, fun _ => fetch_of_storedRegs⟩, ⟨_, rfl, fun _ => fetch_of_storedDigits⟩⟩

end Sys2Proof.Machine
end

section
/-! PROOFS. The statements of 30_encoding.md: the fields of a word (R71), the decoder and the encoder as inverses of
each other (R73, R74), the opcode map by mask and match (R73), and the unrecognised words (R75 to R80). -/

namespace Sys2Proof

/-! ## The fields of a word (R71) -/

/-- Settles O20: each field is a quotient and a remainder of the word. -/
theorem fieldsStandAtTheirBitPositions : Obligations.FieldsStandAtTheirBitPositions := by
  intro op
  rw [toNat_fieldClass, val_fieldX, val_fieldY, val_fieldN, toNat_fieldNN, toNat_fieldNNN]
  omega

section Rebuild

variable {op : Word} {c : BitVec 4}

/-- A word of class c is `c : NNN` of its own field. -/
theorem wordNNN_of_class (hc : (fieldClass op).toNat = c.toNat) : wordNNN c (fieldNNN op) = op := by
  apply BitVec.eq_of_toNat_eq
  rw [toNat_wordNNN, ← hc, toNat_fieldClass, toNat_fieldNNN]
  omega

/-- A word of class c is `c : X : NN` of its own fields. -/
theorem wordXNN_of_class (hc : (fieldClass op).toNat = c.toNat) : wordXNN c (fieldX op) (fieldNN op) = op := by
  apply BitVec.eq_of_toNat_eq
  rw [toNat_wordXNN, ← hc, toNat_fieldClass, val_fieldX, toNat_fieldNN]
  omega

/-- A word of class c is `c : X : Y : N` of its own fields. -/
theorem wordXYN_of_class (hc : (fieldClass op).toNat = c.toNat) :
    wordXYN c (fieldX op) (fieldY op) (fieldN op) = op := by
  apply BitVec.eq_of_toNat_eq
  rw [toNat_wordXYN, ← hc, toNat_fieldClass, val_fieldX, val_fieldY, val_fieldN]
  omega

theorem wordXNN_of_class_NN {nn : Byte} (hc : (fieldClass op).toNat = c.toNat)
    (hnn : (fieldNN op).toNat = nn.toNat) : wordXNN c (fieldX op) nn = op :=
  BitVec.eq_of_toNat_eq hnn ▸ wordXNN_of_class hc

theorem wordXYN_of_class_N {n : Nibble} (hc : (fieldClass op).toNat = c.toNat) (hn : (fieldN op).val = n.val) :
    wordXYN c (fieldX op) (fieldY op) n = op :=
  Fin.ext hn ▸ wordXYN_of_class hc

end Rebuild

/-! ## The first level of the decoder (R74)

One equation for each class. -/

section FirstLevel

variable {op : Word}

theorem decode_class0 (h : (fieldClass op).toNat = 0x0) : decode op = decodeClass0 op := by
  simp [decode, h]
theorem decode_class1 (h : (fieldClass op).toNat = 0x1) : decode op = .ok (.jpAddr (fieldNNN op)) := by
  simp [decode, h]
theorem decode_class2 (h : (fieldClass op).toNat = 0x2) : decode op = .ok (.callAddr (fieldNNN op)) := by
  simp [decode, h]
theorem decode_class3 (h : (fieldClass op).toNat = 0x3) : decode op = .ok (.seVxByte (fieldX op) (fieldNN op)) := by
  simp [decode, h]
theorem decode_class4 (h : (fieldClass op).toNat = 0x4) : decode op = .ok (.sneVxByte (fieldX op) (fieldNN op)) := by
  simp [decode, h]
theorem decode_class5 (h : (fieldClass op).toNat = 0x5) : decode op = decodeClass5 op := by
  simp [decode, h]
theorem decode_class6 (h : (fieldClass op).toNat = 0x6) : decode op = .ok (.ldVxByte (fieldX op) (fieldNN op)) := by
  simp [decode, h]
theorem decode_class7 (h : (fieldClass op).toNat = 0x7) : decode op = .ok (.addVxByte (fieldX op) (fieldNN op)) := by
  simp [decode, h]
theorem decode_class8 (h : (fieldClass op).toNat = 0x8) : decode op = decodeClass8 op := by
  simp [decode, h]
theorem decode_class9 (h : (fieldClass op).toNat = 0x9) : decode op = decodeClass9 op := by
  simp [decode, h]
theorem decode_classA (h : (fieldClass op).toNat = 0xA) : decode op = .ok (.ldIAddr (fieldNNN op)) := by
  simp [decode, h]
theorem decode_classB (h : (fieldClass op).toNat = 0xB) : decode op = .ok (.jpV0Addr (fieldNNN op)) := by
  simp [decode, h]
theorem decode_classC (h : (fieldClass op).toNat = 0xC) : decode op = .ok (.rndVxByte (fieldX op) (fieldNN op)) := by
  simp [decode, h]
theorem decode_classD (h : (fieldClass op).toNat = 0xD) :
    decode op = .ok (.drwVxVyNibble (fieldX op) (fieldY op) (fieldN op)) := by
  simp [decode, h]
theorem decode_classE (h : (fieldClass op).toNat = 0xE) : decode op = decodeClassE op := by
  simp [decode, h]
theorem decode_classF (h : (fieldClass op).toNat = 0xF) : decode op = decodeClassF op := by
  simp [decode, h]

end FirstLevel

/-! ## Decoding what the encoder writes -/

/-- The decoder reads back the encoder's word, class by class. -/
theorem decode_encode (i : Instr) : decode (encode i) = .ok i := by
  cases i
  case cls | ret => rfl
  case jpAddr nnn => simp [encode, decode_class1]
  case callAddr nnn => simp [encode, decode_class2]
  case seVxByte x nn => simp [encode, decode_class3]
  case sneVxByte x nn => simp [encode, decode_class4]
  case seVxVy x y => simp [encode, decode_class5, decodeClass5]
  case ldVxByte x nn => simp [encode, decode_class6]
  case addVxByte x nn => simp [encode, decode_class7]
  case ldVxVy x y | orVxVy x y | andVxVy x y | xorVxVy x y | addVxVy x y | subVxVy x y | shrVxVy x y | subnVxVy x y |
      shlVxVy x y => simp [encode, decode_class8, decodeClass8]
  case sneVxVy x y => simp [encode, decode_class9, decodeClass9]
  case ldIAddr nnn => simp [encode, decode_classA]
  case jpV0Addr nnn => simp [encode, decode_classB]
  case rndVxByte x nn => simp [encode, decode_classC]
  case drwVxVyNibble x y n => simp [encode, decode_classD]
  case skpVx x | sknpVx x => simp [encode, decode_classE, decodeClassE]
  case ldVxDT x | ldVxK x | ldDTVx x | ldSTVx x | addIVx x | ldFVx x | ldBVx x | ldMemIVx x | ldVxMemI x =>
    simp [encode, decode_classF, decodeClassF]

/-- The byte decoder takes the two bytes of the instruction and leaves the rest (R52, R70). -/
theorem decodeBytes_encodeBytes (i : Instr) (rest : List Byte) :
    decodeBytes (encodeBytes i ++ rest) = .ok (i, rest) := by
  show decodeBytes (highByte (encode i) :: lowByte (encode i) :: rest) = _
  rw [decodeBytes, wordOfBytes_split, decode_encode]

/-- Settles O18: the class digit of the encoder's word selects the decoder's arm, and the fields are the operands. -/
theorem decodingAnEncodedInstructionGivesItBack : Obligations.DecodingAnEncodedInstructionGivesItBack :=
  fun i _ => ⟨decode_encode i, decodeBytes_encodeBytes i⟩

/-! ## Encoding what the decoder answers -/

section EncodeOfDecode

variable {op : Word} {i : Instr}

theorem encode_of_decodeClass0 (hc : (fieldClass op).toNat = 0x0) (h : decodeClass0 op = .ok i) : encode i = op := by
  have word_eq {nnn : Addr12} (hnnn : (fieldNNN op).toNat = nnn.toNat) : wordNNN 0x0 nnn = op :=
    BitVec.eq_of_toNat_eq hnnn ▸ wordNNN_of_class hc
  unfold decodeClass0 at h
  split at h <;> cases h
  · exact word_eq (nnn := 0x0E0) ‹_›
  · exact word_eq (nnn := 0x0EE) ‹_›

theorem encode_of_decodeClass5 (hc : (fieldClass op).toNat = 0x5) (h : decodeClass5 op = .ok i) : encode i = op := by
  unfold decodeClass5 at h
  split at h <;> cases h
  exact wordXYN_of_class_N hc ‹_›

theorem encode_of_decodeClass8 (hc : (fieldClass op).toNat = 0x8) (h : decodeClass8 op = .ok i) : encode i = op := by
  unfold decodeClass8 at h
  split at h <;> cases h <;> exact wordXYN_of_class_N hc ‹_›

theorem encode_of_decodeClass9 (hc : (fieldClass op).toNat = 0x9) (h : decodeClass9 op = .ok i) : encode i = op := by
  unfold decodeClass9 at h
  split at h <;> cases h
  exact wordXYN_of_class_N hc ‹_›

theorem encode_of_decodeClassE (hc : (fieldClass op).toNat = 0xE) (h : decodeClassE op = .ok i) : encode i = op := by
  unfold decodeClassE at h
  split at h <;> cases h <;> exact wordXNN_of_class_NN hc ‹_›

theorem encode_of_decodeClassF (hc : (fieldClass op).toNat = 0xF) (h : decodeClassF op = .ok i) : encode i = op := by
  unfold decodeClassF at h
  split at h <;> cases h <;> exact wordXNN_of_class_NN hc ‹_›

/-- The first level answers an instruction that encodes to the word, or leaves the word to the second level of its
class (R74). -/
theorem decode_cases (op : Word) :
    (∃ i, decode op = .ok i ∧ encode i = op) ∨
    ((fieldClass op).toNat = 0x0 ∧ decode op = decodeClass0 op) ∨
    ((fieldClass op).toNat = 0x5 ∧ decode op = decodeClass5 op) ∨
    ((fieldClass op).toNat = 0x8 ∧ decode op = decodeClass8 op) ∨
    ((fieldClass op).toNat = 0x9 ∧ decode op = decodeClass9 op) ∨
    ((fieldClass op).toNat = 0xE ∧ decode op = decodeClassE op) ∨
    ((fieldClass op).toNat = 0xF ∧ decode op = decodeClassF op) := by
  have hlt : (fieldClass op).toNat < 16 := (fieldClass op).isLt
  match hc : (fieldClass op).toNat with
  | 0x0 => simp [decode_class0 hc]
  | 0x1 => exact .inl ⟨_, decode_class1 hc, wordNNN_of_class hc⟩
  | 0x2 => exact .inl ⟨_, decode_class2 hc, wordNNN_of_class hc⟩
  | 0x3 => exact .inl ⟨_, decode_class3 hc, wordXNN_of_class hc⟩
  | 0x4 => exact .inl ⟨_, decode_class4 hc, wordXNN_of_class hc⟩
  | 0x5 => simp [decode_class5 hc]
  | 0x6 => exact .inl ⟨_, decode_class6 hc, wordXNN_of_class hc⟩
  | 0x7 => exact .inl ⟨_, decode_class7 hc, wordXNN_of_class hc⟩
  | 0x8 => simp [decode_class8 hc]
  | 0x9 => simp [decode_class9 hc]
  | 0xA => exact .inl ⟨_, decode_classA hc, wordNNN_of_class hc⟩
  | 0xB => exact .inl ⟨_, decode_classB hc, wordNNN_of_class hc⟩
  | 0xC => exact .inl ⟨_, decode_classC hc, wordXNN_of_class hc⟩
  | 0xD => exact .inl ⟨_, decode_classD hc, wordXYN_of_class hc⟩
  | 0xE => simp [decode_classE hc]
  | 0xF => simp [decode_classF hc]
  | _ + 16 => omega

/-- Each arm of the decoder answers operands from which the encoder rebuilds the word. -/
theorem encode_of_decode (h : decode op = .ok i) : encode i = op := by
  rcases decode_cases op with ⟨j, hj, hop⟩ | ⟨hc, hd⟩ | ⟨hc, hd⟩ | ⟨hc, hd⟩ | ⟨hc, hd⟩ | ⟨hc, hd⟩ | ⟨hc, hd⟩
  · cases h.symm.trans hj
    exact hop
  · exact encode_of_decodeClass0 hc (hd ▸ h)
  · exact encode_of_decodeClass5 hc (hd ▸ h)
  · exact encode_of_decodeClass8 hc (hd ▸ h)
  · exact encode_of_decodeClass9 hc (hd ▸ h)
  · exact encode_of_decodeClassE hc (hd ▸ h)
  · exact encode_of_decodeClassF hc (hd ▸ h)

/-- Settles O19. -/
theorem decodedInstructionEncodesToItsWord : Obligations.DecodedInstructionEncodesToItsWord :=
  fun _ _ => encode_of_decode

end EncodeOfDecode

/-! ## The opcode map (R73) -/

/-- Every instruction's word matches the row of its mnemonic. -/
theorem encode_matches_row (i : Instr) :
    ∃ row ∈ opcodeTable, row.mnemonic = i.mnemonic ∧ row.matches (encode i) = true :=
  match i with
  | .cls => Laws.RowMatch.cls
  | .ret => Laws.RowMatch.ret
  | .jpAddr nnn => Laws.RowMatch.jpAddr nnn
  | .callAddr nnn => Laws.RowMatch.callAddr nnn
  | .seVxByte x nn => Laws.RowMatch.seVxByte x nn
  | .sneVxByte x nn => Laws.RowMatch.sneVxByte x nn
  | .seVxVy x y => Laws.RowMatch.seVxVy x y
  | .ldVxByte x nn => Laws.RowMatch.ldVxByte x nn
  | .addVxByte x nn => Laws.RowMatch.addVxByte x nn
  | .ldVxVy x y => Laws.RowMatch.ldVxVy x y
  | .orVxVy x y => Laws.RowMatch.orVxVy x y
  | .andVxVy x y => Laws.RowMatch.andVxVy x y
  | .xorVxVy x y => Laws.RowMatch.xorVxVy x y
  | .addVxVy x y => Laws.RowMatch.addVxVy x y
  | .subVxVy x y => Laws.RowMatch.subVxVy x y
  | .shrVxVy x y => Laws.RowMatch.shrVxVy x y
  | .subnVxVy x y => Laws.RowMatch.subnVxVy x y
  | .shlVxVy x y => Laws.RowMatch.shlVxVy x y
  | .sneVxVy x y => Laws.RowMatch.sneVxVy x y
  | .ldIAddr nnn => Laws.RowMatch.ldIAddr nnn
  | .jpV0Addr nnn => Laws.RowMatch.jpV0Addr nnn
  | .rndVxByte x nn => Laws.RowMatch.rndVxByte x nn
  | .drwVxVyNibble x y n => Laws.RowMatch.drwVxVyNibble x y n
  | .skpVx x => Laws.RowMatch.skpVx x
  | .sknpVx x => Laws.RowMatch.sknpVx x
  | .ldVxDT x => Laws.RowMatch.ldVxDT x
  | .ldVxK x => Laws.RowMatch.ldVxK x
  | .ldDTVx x => Laws.RowMatch.ldDTVx x
  | .ldSTVx x => Laws.RowMatch.ldSTVx x
  | .addIVx x => Laws.RowMatch.addIVx x
  | .ldFVx x => Laws.RowMatch.ldFVx x
  | .ldBVx x => Laws.RowMatch.ldBVx x
  | .ldMemIVx x => Laws.RowMatch.ldMemIVx x
  | .ldVxMemI x => Laws.RowMatch.ldVxMemI x

/-- The word is the encoding of an instruction of the row. -/
def OpcodeRow.Encodes (row : OpcodeRow) (op : Word) : Prop := ∃ i : Instr, encode i = op ∧ i.mnemonic = row.mnemonic

section OpcodeMap

variable {op : Word} {m : String}

theorem wordNNN_of_matches (c : BitVec 4)
    (h : OpcodeRow.matches ⟨m, 0xF000, BitVec.ofNat 16 (c.toNat * 4096)⟩ op = true) : wordNNN c (fieldNNN op) = op :=
  wordNNN_of_class ((matches_F000 op m c.toNat c.isLt).mp h)

theorem wordXNN_of_matches (c : BitVec 4)
    (h : OpcodeRow.matches ⟨m, 0xF000, BitVec.ofNat 16 (c.toNat * 4096)⟩ op = true) :
    wordXNN c (fieldX op) (fieldNN op) = op :=
  wordXNN_of_class ((matches_F000 op m c.toNat c.isLt).mp h)

theorem wordXYN_of_matches (c : BitVec 4)
    (h : OpcodeRow.matches ⟨m, 0xF000, BitVec.ofNat 16 (c.toNat * 4096)⟩ op = true) :
    wordXYN c (fieldX op) (fieldY op) (fieldN op) = op :=
  wordXYN_of_class ((matches_F000 op m c.toNat c.isLt).mp h)

theorem wordXYN_of_matches_N (c : BitVec 4) (n : Nibble)
    (h : OpcodeRow.matches ⟨m, 0xF00F, BitVec.ofNat 16 (c.toNat * 4096 + n.val)⟩ op = true) :
    wordXYN c (fieldX op) (fieldY op) n = op := by
  obtain ⟨hc, hn⟩ := (matches_F00F op m c.toNat n.val c.isLt n.isLt).mp h
  exact wordXYN_of_class_N hc hn

theorem wordXNN_of_matches_NN (c : BitVec 4) (nn : Byte)
    (h : OpcodeRow.matches ⟨m, 0xF0FF, BitVec.ofNat 16 (c.toNat * 4096 + nn.toNat)⟩ op = true) :
    wordXNN c (fieldX op) nn = op := by
  obtain ⟨hc, hnn⟩ := (matches_F0FF op m c.toNat nn.toNat c.isLt nn.isLt).mp h
  exact wordXNN_of_class_NN hc hnn

/-- Rows 00E0 to 7XNN: the operands are the fields that the row's mask leaves open. -/
theorem encodes_of_matches_low : ∀ row ∈ opcodeRowsLow, row.matches op = true → row.Encodes op := by
  simp only [opcodeRowsLow, List.forall_mem_cons, List.not_mem_nil, false_implies, implies_true, and_true]
  exact ⟨fun h => ⟨.cls, ((matches_FFFF _ _ _).mp h).symm, rfl⟩,
    fun h => ⟨.ret, ((matches_FFFF _ _ _).mp h).symm, rfl⟩,
    fun h => ⟨.jpAddr _, wordNNN_of_matches 0x1 h, rfl⟩,
    fun h => ⟨.callAddr _, wordNNN_of_matches 0x2 h, rfl⟩,
    fun h => ⟨.seVxByte _ _, wordXNN_of_matches 0x3 h, rfl⟩,
    fun h => ⟨.sneVxByte _ _, wordXNN_of_matches 0x4 h, rfl⟩,
    fun h => ⟨.seVxVy _ _, wordXYN_of_matches_N 0x5 0x0 h, rfl⟩,
    fun h => ⟨.ldVxByte _ _, wordXNN_of_matches 0x6 h, rfl⟩,
    fun h => ⟨.addVxByte _ _, wordXNN_of_matches 0x7 h, rfl⟩⟩

/-- Rows 8XY0 to 9XY0: the operands are the fields that the row's mask leaves open. -/
theorem encodes_of_matches_alu : ∀ row ∈ opcodeRowsAlu, row.matches op = true → row.Encodes op := by
  simp only [opcodeRowsAlu, List.forall_mem_cons, List.not_mem_nil, false_implies, implies_true, and_true]
  exact ⟨fun h => ⟨.ldVxVy _ _, wordXYN_of_matches_N 0x8 0x0 h, rfl⟩,
    fun h => ⟨.orVxVy _ _, wordXYN_of_matches_N 0x8 0x1 h, rfl⟩,
    fun h => ⟨.andVxVy _ _, wordXYN_of_matches_N 0x8 0x2 h, rfl⟩,
    fun h => ⟨.xorVxVy _ _, wordXYN_of_matches_N 0x8 0x3 h, rfl⟩,
    fun h => ⟨.addVxVy _ _, wordXYN_of_matches_N 0x8 0x4 h, rfl⟩,
    fun h => ⟨.subVxVy _ _, wordXYN_of_matches_N 0x8 0x5 h, rfl⟩,
    fun h => ⟨.shrVxVy _ _, wordXYN_of_matches_N 0x8 0x6 h, rfl⟩,
    fun h => ⟨.subnVxVy _ _, wordXYN_of_matches_N 0x8 0x7 h, rfl⟩,
    fun h => ⟨.shlVxVy _ _, wordXYN_of_matches_N 0x8 0xE h, rfl⟩,
    fun h => ⟨.sneVxVy _ _, wordXYN_of_matches_N 0x9 0x0 h, rfl⟩⟩

/-- Rows ANNN to EXA1: the operands are the fields that the row's mask leaves open. -/
theorem encodes_of_matches_mid : ∀ row ∈ opcodeRowsMid, row.matches op = true → row.Encodes op := by
  simp only [opcodeRowsMid, List.forall_mem_cons, List.not_mem_nil, false_implies, implies_true, and_true]
  exact ⟨fun h => ⟨.ldIAddr _, wordNNN_of_matches 0xA h, rfl⟩,
    fun h => ⟨.jpV0Addr _, wordNNN_of_matches 0xB h, rfl⟩,
    fun h => ⟨.rndVxByte _ _, wordXNN_of_matches 0xC h, rfl⟩,
    fun h => ⟨.drwVxVyNibble _ _ _, wordXYN_of_matches 0xD h, rfl⟩,
    fun h => ⟨.skpVx _, wordXNN_of_matches_NN 0xE 0x9E h, rfl⟩,
    fun h => ⟨.sknpVx _, wordXNN_of_matches_NN 0xE 0xA1 h, rfl⟩⟩

/-- Rows FX07 to FX65: the operands are the fields that the row's mask leaves open. -/
theorem encodes_of_matches_high : ∀ row ∈ opcodeRowsHigh, row.matches op = true → row.Encodes op := by
  simp only [opcodeRowsHigh, List.forall_mem_cons, List.not_mem_nil, false_implies, implies_true, and_true]
  exact ⟨fun h => ⟨.ldVxDT _, wordXNN_of_matches_NN 0xF 0x07 h, rfl⟩,
    fun h => ⟨.ldVxK _, wordXNN_of_matches_NN 0xF 0x0A h, rfl⟩,
    fun h => ⟨.ldDTVx _, wordXNN_of_matches_NN 0xF 0x15 h, rfl⟩,
    fun h => ⟨.ldSTVx _, wordXNN_of_matches_NN 0xF 0x18 h, rfl⟩,
    fun h => ⟨.addIVx _, wordXNN_of_matches_NN 0xF 0x1E h, rfl⟩,
    fun h => ⟨.ldFVx _, wordXNN_of_matches_NN 0xF 0x29 h, rfl⟩,
    fun h => ⟨.ldBVx _, wordXNN_of_matches_NN 0xF 0x33 h, rfl⟩,
    fun h => ⟨.ldMemIVx _, wordXNN_of_matches_NN 0xF 0x55 h, rfl⟩,
    fun h => ⟨.ldVxMemI _, wordXNN_of_matches_NN 0xF 0x65 h, rfl⟩⟩

/-- A word that matches a row of the map is the encoding of an instruction of that row. -/
theorem encodes_of_matches {row : OpcodeRow} (hrow : row ∈ opcodeTable) (h : row.matches op = true) :
    row.Encodes op := by
  simp only [opcodeTable, List.mem_append] at hrow
  rcases hrow with ((hrow | hrow) | hrow) | hrow
  · exact encodes_of_matches_low row hrow h
  · exact encodes_of_matches_alu row hrow h
  · exact encodes_of_matches_mid row hrow h
  · exact encodes_of_matches_high row hrow h

/-- A word that matches a row decodes to an instruction of that row. -/
theorem decode_of_matches {row : OpcodeRow} (hrow : row ∈ opcodeTable) (h : row.matches op = true) :
    ∃ i, decode op = .ok i ∧ i.mnemonic = row.mnemonic := by
  obtain ⟨i, rfl, hi⟩ := encodes_of_matches hrow h
  exact ⟨i, decode_encode i, hi⟩

/-- No two rows carry one mnemonic. -/
theorem opcodeTable_mnemonic_nodup : (opcodeTable.map OpcodeRow.mnemonic).Nodup := by decide

/-- Settles O21: a matching word is the encoding of an instruction of the row, and the decoder has one answer. -/
theorem opcodeMapAndDecoderAgree : Obligations.OpcodeMapAndDecoderAgree := by
  refine ⟨rfl, fun op i h => ?_, fun op row hrow h => decode_of_matches hrow h, fun op row hrow row' hrow' h h' => ?_⟩
  · obtain ⟨row, hrow, hm, hmatch⟩ := encode_matches_row i
    exact ⟨row, hrow, encode_of_decode h ▸ hmatch, hm⟩
  · obtain ⟨i, hi, hm⟩ := decode_of_matches hrow h
    obtain ⟨i', hi', hm'⟩ := decode_of_matches hrow' h'
    cases hi.symm.trans hi'
    exact List.inj_on_of_nodup_map opcodeTable_mnemonic_nodup hrow hrow' (hm.symm.trans hm')

end OpcodeMap

/-! ## The unrecognised words (R75 to R80) -/

section Unrecognised

variable {op : Word} {e : Unrecognised}

theorem decodeClass0_eq_error_iff : decodeClass0 op = .error e ↔
    e = .class0 ∧ (fieldNNN op).toNat ∉ [0x0E0, 0x0EE] := by
  unfold decodeClass0
  split <;> simp_all [eq_comm (b := e)]

theorem decodeClass5_eq_error_iff : decodeClass5 op = .error e ↔
    e = .class5 ∧ (fieldN op).val ∉ [0x0] := by
  unfold decodeClass5
  split <;> simp_all [eq_comm (b := e)]

theorem decodeClass8_eq_error_iff : decodeClass8 op = .error e ↔
    e = .class8 ∧ (fieldN op).val ∉ [0x0, 0x1, 0x2, 0x3, 0x4, 0x5, 0x6, 0x7, 0xE] := by
  unfold decodeClass8
  split <;> simp_all [eq_comm (b := e)]

theorem decodeClass9_eq_error_iff : decodeClass9 op = .error e ↔
    e = .class9 ∧ (fieldN op).val ∉ [0x0] := by
  unfold decodeClass9
  split <;> simp_all [eq_comm (b := e)]

theorem decodeClassE_eq_error_iff : decodeClassE op = .error e ↔
    e = .classE ∧ (fieldNN op).toNat ∉ [0x9E, 0xA1] := by
  unfold decodeClassE
  split <;> simp_all [eq_comm (b := e)]

theorem decodeClassF_eq_error_iff : decodeClassF op = .error e ↔
    e = .classF ∧ (fieldNN op).toNat ∉ [0x07, 0x0A, 0x15, 0x18, 0x1E, 0x29, 0x33, 0x55, 0x65] := by
  unfold decodeClassF
  split <;> simp_all [eq_comm (b := e)]

/-- Only the second level of a class leaves a word unrecognised (R82). -/
theorem decode_eq_error_iff : decode op = .error e ↔
    ((fieldClass op).toNat = 0x0 ∧ decodeClass0 op = .error e) ∨
    ((fieldClass op).toNat = 0x5 ∧ decodeClass5 op = .error e) ∨
    ((fieldClass op).toNat = 0x8 ∧ decodeClass8 op = .error e) ∨
    ((fieldClass op).toNat = 0x9 ∧ decodeClass9 op = .error e) ∨
    ((fieldClass op).toNat = 0xE ∧ decodeClassE op = .error e) ∨
    ((fieldClass op).toNat = 0xF ∧ decodeClassF op = .error e) := by
  constructor
  · intro h
    rcases decode_cases op with ⟨i, hi, -⟩ | ⟨hc, hd⟩ | ⟨hc, hd⟩ | ⟨hc, hd⟩ | ⟨hc, hd⟩ | ⟨hc, hd⟩ | ⟨hc, hd⟩
    · cases h.symm.trans hi
    all_goals simp [hc, hd.symm.trans h]
  · rintro (⟨hc, h⟩ | ⟨hc, h⟩ | ⟨hc, h⟩ | ⟨hc, h⟩ | ⟨hc, h⟩ | ⟨hc, h⟩)
    · exact (decode_class0 hc).trans h
    · exact (decode_class5 hc).trans h
    · exact (decode_class8 hc).trans h
    · exact (decode_class9 hc).trans h
    · exact (decode_classE hc).trans h
    · exact (decode_classF hc).trans h

/-- The digits N that class 0x8 does not name (R77). -/
theorem not_mem_keys_class8_iff (n : Nibble) : n.val ∉ [0x0, 0x1, 0x2, 0x3, 0x4, 0x5, 0x6, 0x7, 0xE] ↔
    n ∈ ([0x8, 0x9, 0xA, 0xB, 0xC, 0xD, 0xF] : List Nibble) := by
  revert n
  decide

/-- Settles O22: each second level rejects the words whose digits are no key of its own, under its class's name. -/
theorem unrecognisedWordsOfEachClass : Obligations.UnrecognisedWordsOfEachClass := by
  intro op
  simp only [ne_eq, decode_eq_error_iff, decodeClass0_eq_error_iff, decodeClass5_eq_error_iff,
    decodeClass8_eq_error_iff, decodeClass9_eq_error_iff, decodeClassE_eq_error_iff, decodeClassF_eq_error_iff]
  refine ⟨?class0, ?class5, ?class9, ?class8, ?classE, ?classF, ?truncated⟩
  case class0 =>
    have hword : (fieldClass op).toNat = 0x0 → (fieldNNN op).toNat = op.toNat := by
      rw [toNat_fieldClass, toNat_fieldNNN]
      omega
    simp +contextual [← BitVec.toNat_inj, hword]
  case class8 =>
    rw [not_mem_keys_class8_iff]
    simp [← BitVec.toNat_inj]
  case class5 | class9 | classE | classF | truncated => simp [← BitVec.toNat_inj]

/-! ### How many there are (R80) -/

/-- A list of distinct numbers below m leaves out m - length of the numbers below m. -/
theorem countP_not_contains_range {m : Nat} {L : List Nat} (hnd : L.Nodup) (hlt : ∀ n ∈ L, n < m) :
    (List.range m).countP (fun n => !L.contains n) = m - L.length := by
  have hin : (List.range m).countP (L.contains ·) = L.length := by
    rw [List.countP_eq_length_filter]
    refine List.Perm.length_eq ((List.perm_ext_iff_of_nodup (List.nodup_range.filter _) hnd).mpr fun n => ?_)
    simpa using hlt n
  have hall : (List.range m).length = _ := List.length_eq_countP_add_countP (L.contains ·)
  rw [List.length_range, hin] at hall
  simp only [Bool.not_eq_true, Bool.decide_eq_false] at hall
  omega

/-- A predicate on residues modulo m holds k times as often below m * k as below m. -/
theorem countP_mod_range {p : Nat → Bool} {m : Nat} (k : Nat) :
    (List.range (m * k)).countP (fun n => p (n % m)) = k * (List.range m).countP p := by
  induction k with
  | zero => simp
  | succ k ih =>
    have hblock : (List.range m).countP ((fun n => p (n % m)) ∘ (m * k + ·)) = (List.range m).countP p := by
      refine List.countP_congr fun n hn => ?_
      rw [Function.comp_apply, Nat.mul_add_mod, Nat.mod_eq_of_lt (List.mem_range.mp hn)]
    rw [Nat.mul_succ, List.range_add, List.countP_append, List.countP_map, ih, hblock, Nat.succ_mul]

theorem fieldN_wordNNN (c : BitVec 4) (n : Nat) : (fieldN (wordNNN c (BitVec.ofNat 12 n))).val = n % 16 := by
  rw [val_fieldN, toNat_wordNNN, BitVec.toNat_ofNat]
  omega

theorem fieldNN_wordNNN (c : BitVec 4) (n : Nat) : (fieldNN (wordNNN c (BitVec.ofNat 12 n))).toNat = n % 256 := by
  rw [toNat_fieldNN, toNat_wordNNN, BitVec.toNat_ofNat]
  omega

theorem not_isOk_iff (r : Except Unrecognised Instr) : (!r.isOk) = true ↔ ∃ e, r = .error e := by
  cases r <;> simp [Except.isOk, Except.toBool]

/-- The second level of class c reads the word modulo this number: NNN, N or NN, and nothing in a class that the first
level decides (R74). -/
def keyModulus (c : Fin 16) : Nat :=
  match c with
  | 0x0 => 4096
  | 0x5 | 0x8 | 0x9 => 16
  | 0xE | 0xF => 256
  | _ => 1

/-- The keys that the second level of class c names (R75 to R79). -/
def classKeys (c : Fin 16) : List Nat :=
  match c with
  | 0x0 => [0x0E0, 0x0EE]
  | 0x8 => [0x0, 0x1, 0x2, 0x3, 0x4, 0x5, 0x6, 0x7, 0xE]
  | 0xE => [0x9E, 0xA1]
  | 0xF => [0x07, 0x0A, 0x15, 0x18, 0x1E, 0x29, 0x33, 0x55, 0x65]
  | _ => [0x0]

theorem classKeys_nodup (c : Fin 16) : (classKeys c).Nodup := by
  revert c
  decide

theorem classKeys_lt_keyModulus (c : Fin 16) : ∀ n ∈ classKeys c, n < keyModulus c := by
  revert c
  decide

/-- A word decodes exactly when its digits are a key of its class. -/
theorem not_isOk_decode_wordNNN (c : Fin 16) (n : Nat) :
    (!(decode (wordNNN (nibbleBits c) (BitVec.ofNat 12 n))).isOk) = !(classKeys c).contains (n % keyModulus c) := by
  rw [Bool.eq_iff_iff, not_isOk_iff]
  simp only [decode_eq_error_iff, decodeClass0_eq_error_iff, decodeClass5_eq_error_iff, decodeClass8_eq_error_iff,
    decodeClass9_eq_error_iff, decodeClassE_eq_error_iff, decodeClassF_eq_error_iff, fieldClass_wordNNN,
    fieldNNN_wordNNN, fieldN_wordNNN, fieldNN_wordNNN, toNat_nibbleBits, BitVec.toNat_ofNat]
  fin_cases c <;> simp [classKeys, keyModulus, Nat.mod_one]

/-- Over k periods, the numbers whose residue is no key of class c. -/
theorem countP_no_key (c : Fin 16) (k : Nat) :
    (List.range (keyModulus c * k)).countP (fun n => !(classKeys c).contains (n % keyModulus c)) =
      k * (keyModulus c - (classKeys c).length) := by
  rw [countP_mod_range (p := fun r => !(classKeys c).contains r),
    countP_not_contains_range (classKeys_nodup c) (classKeys_lt_keyModulus c)]

/-- Settles O23: each class rejects the residues that are no key, as often as its modulus goes into 4096. -/
theorem unrecognisedWordCounts : Obligations.UnrecognisedWordCounts := by
  refine ⟨fun c => ?_, rfl, rfl⟩
  have hmod : 4096 = keyModulus c * (4096 / keyModulus c) := by
    revert c
    decide
  simp only [not_isOk_decode_wordNNN]
  rw [hmod, countP_no_key]
  revert c
  decide

end Unrecognised

/-- Settles O24. -/
theorem wordsFromTheSpecDecodeAsItSays : Obligations.WordsFromTheSpecDecodeAsItSays :=
  ⟨rfl, rfl, rfl, rfl, rfl, rfl, rfl, rfl, rfl, rfl, rfl, rfl, rfl, rfl, rfl, rfl, rfl⟩

end Sys2Proof

namespace Sys2Proof.Machine

/-- Settles O4: outside Running, with an unrecognised word, and with an instruction there is a next state. -/
theorem everyStepAnswersANextState : Obligations.EveryStepAnswersANextState := by
  intro s
  by_cases hrun : s.run = .running
  · cases hd : decode s.fetchWord with
    | ok i =>
      rw [step_of_decode_ok hrun hd]
      exact exec_total i s.advancePc
    | error e => exact ⟨_, step_of_decode_error hrun hd⟩
  · exact ⟨_, step_of_not_running hrun⟩

end Sys2Proof.Machine
end

section
/-! PROOFS. The statements of 40_pc_control.md: the step cycle (R100), the next PC (R110), jumps (R103, R105), the
register skips (R101, R106 to R109), and call and return (R102, R104). -/

namespace Sys2Proof.Machine

/-! ## The step (R100) -/

/-- A running block whose word is the encoding of i executes i after the fetch advance (R100). -/
theorem step_of_fetchWord_eq {s : State} {i : Instr} (hrun : s.run = .running) (hword : s.fetchWord = encode i) :
    step s = exec i s.advancePc :=
  step_of_decode_ok hrun (hword ▸ decode_encode i)

/-- Settles O2, by the step's equations in and outside Running. -/
theorem stepRunsTheDecodedInstruction : Obligations.StepRunsTheDecodedInstruction :=
  fun _ => ⟨step_of_not_running, fun hrun _ hdecode _ => step_of_decode_ok hrun hdecode⟩

/-! ## Jump targets -/

@[simp] theorem toNat_zext16 (nnn : Addr12) : (zext16 nnn).toNat = nnn.toNat :=
  BitVec.toNat_setWidth_of_le (by decide)

/-- BNNN's target fits in 16 bits, so it is the exact sum (R105). -/
theorem toNat_indexedTarget (nnn : Addr12) (b : Byte) : (indexedTarget nnn b).toNat = nnn.toNat + b.toNat := by
  have := nnn.isLt
  have := b.isLt
  rw [indexedTarget, BitVec.toNat_ofNat]
  omega

/-- BNNN's target as the 16-bit sum that the next-PC table writes (R110). -/
theorem indexedTarget_eq_add (nnn : Addr12) (b : Byte) :
    indexedTarget nnn b = nnn.setWidth 16 + b.setWidth 16 := by
  simp [indexedTarget, BitVec.ofNat_add]

/-! ## The next PC (R110) -/

/-- A skip on top of the fetch advance leaves PC 4 after the instruction, and PC is 2 after it without (R101). -/
theorem skipIf_advancePc_pc (c : Bool) (s : State) :
    (s.advancePc.skipIf c).pc = if c then s.pc + 4 else s.pc + 2 := by
  rw [State.skipIf_eq, State.setPc_pc, State.advancePc_pc, BitVec.add_assoc]
  rfl

/-- The R110 table for a decoded instruction, run after the fetch advance: the instructions that have their own row set
PC as it says; the others leave the advanced PC alone. -/
theorem exec_pc {i : Instr} {s t : State} (h : exec i s.advancePc = .next t) : t.pc = nextPc (.ok i) s := by
  cases i with
  | ret =>
    rcases s.sp_empty_or_pos with hempty | hpos
    · cases (exec_ret_of_empty (s := s.advancePc) hempty).symm.trans h
      simp [nextPc, hempty]
    · cases (exec_ret_of_pos (s := s.advancePc) hpos).symm.trans h
      simp [nextPc, hpos.ne']
  | callAddr nnn =>
    rcases s.sp_full_or_lt with hfull | hlt
    · cases (exec_callAddr_of_full (s := s.advancePc) nnn hfull).symm.trans h
      simp [nextPc, hfull]
    · cases (exec_callAddr_of_lt (s := s.advancePc) nnn hlt).symm.trans h
      simp [nextPc, hlt.ne, zext16]
  | jpAddr => cases h; rfl
  | jpV0Addr nnn => cases h; exact indexedTarget_eq_add nnn _
  | seVxByte | sneVxByte | seVxVy | sneVxVy | skpVx | sknpVx => cases h; exact skipIf_advancePc_pc _ s
  | ldVxK x =>
    cases hk : s.leastKey with
    | none =>
      cases (exec_ldVxK_of_none (s := s.advancePc) x hk).symm.trans h
      rw [nextPc, if_pos (State.leastKey_none.mp hk)]
      exact BitVec.add_sub_cancel _ _
    | some k =>
      cases (exec_ldVxK_of_some (s := s.advancePc) x hk).symm.trans h
      rw [nextPc, if_neg fun hnone => nomatch hk.symm.trans (State.leastKey_none.mpr hnone)]
      rfl
  | _ => exact (exec_frame h).pc rfl

/-- Settles O5, by the cases of a step: an unrecognised word leaves PC at the fetch advance. -/
theorem nextPcIsOneOfTheSelectedValues : Obligations.NextPcIsOneOfTheSelectedValues := by
  intro s t hrun h
  rcases step_cases h with ⟨hnot, -⟩ | ⟨-, i, hd, hx⟩ | ⟨-, e, hd, rfl⟩
  · exact absurd hrun hnot
  · rw [hd, exec_pc hx]
  · rw [hd]
    rfl

/-! ## Jumps (R103, R105) -/

/-- Settles O6: the jump puts back the PC that the fetch advance moved. -/
theorem selfJumpStepChangesNothing : Obligations.SelfJumpStepChangesNothing := by
  intro s nnn hrun hpc hword
  have htarget : zext16 nnn = s.pc := BitVec.eq_of_toNat_eq ((toNat_zext16 nnn).trans hpc.symm)
  calc step s = exec (.jpAddr nnn) s.advancePc := step_of_fetchWord_eq hrun hword
    _ = .next (s.setPc (zext16 nnn)) := rfl
    _ = .next s := by rw [htarget]; rfl

/-- Settles O25, from the values of the two targets. -/
theorem jumpsSetPcOnly : Obligations.JumpsSetPcOnly :=
  fun nnn => ⟨decode_encode (.jpAddr nnn), decode_encode (.jpV0Addr nnn), fun s =>
    ⟨⟨_, rfl, toNat_zext16 nnn, (Frame.refl _ s).setPc rfl _⟩,
      ⟨_, rfl, toNat_indexedTarget nnn _, (Frame.refl _ s).setPc rfl _⟩⟩⟩

/-! ## Skips (R101, R106 to R109) -/

/-- An instruction that is a conditional skip moves PC to w, the value its condition selects, and changes nothing else. -/
theorem exec_skip_spec {i : Instr} {s : State} {c : Bool} {w : Word} (h : exec i s = .next (s.skipIf c))
    (hw : (if c then s.pc + 2 else s.pc) = w) : ∃ t, exec i s = .next t ∧ t.pc = w ∧ Frame { pc := true } s t :=
  ⟨_, h, by rw [State.skipIf_eq, State.setPc_pc, hw], (Frame.refl _ s).skipIf rfl c⟩

/-- Settles O29: the four are conditional skips on an equality or its negation. -/
theorem registerSkipsMovePcOnTheirCondition : Obligations.RegisterSkipsMovePcOnTheirCondition :=
  fun x y nn => ⟨decode_encode (.seVxByte x nn), decode_encode (.sneVxByte x nn), decode_encode (.seVxVy x y),
    decode_encode (.sneVxVy x y), fun _ =>
    ⟨exec_skip_spec rfl (by simp only [beq_iff_eq]), exec_skip_spec rfl (by simp only [bne_iff_ne, ite_not]),
      exec_skip_spec rfl (by simp only [beq_iff_eq]), exec_skip_spec rfl (by simp only [bne_iff_ne, ite_not])⟩⟩

/-! ## Call and return (R102, R104, R202, R203) -/

/-- 2NNN on a stack with room: the return address at the old SP, SP one higher, and the jump (R104). -/
theorem exec_callAddr_pushes {s : State} (nnn : Addr12) (h : s.sp.val < Config.stackDepth) :
    ∃ t, exec (.callAddr nnn) s = .next t ∧ t.stack[s.sp.val]'h = s.pc ∧ t.sp.val = s.sp.val + 1 ∧
      t.pc.toNat = nnn.toNat ∧ Frame { pc := true, sp := true, stack := [s.sp.val] } s t :=
  ⟨_, exec_callAddr_of_lt nnn h, Vector.getElem_set_self h, rfl, toNat_zext16 nnn,
    ((Frame.refl _ s).push rfl (.head _) (State.push_of_lt _ h)).setPc rfl _⟩

/-- 00EE on a stack with an entry: the top entry into PC, and SP one lower (R102). -/
theorem exec_ret_pops {s : State} (h : 0 < s.sp.val) :
    ∃ t, exec .ret s = .next t ∧ t.pc = s.stack[s.sp.val - 1]'(by have := s.sp.isLt; omega) ∧
      t.sp.val + 1 = s.sp.val ∧ Frame { pc := true, sp := true } s t :=
  ⟨_, exec_ret_of_pos h, rfl, Nat.sub_add_cancel h,
    ((Frame.refl _ s).pop rfl (State.pop_of_pos h)).setPc rfl _⟩

/-- The fatal entry halts, keeps an earlier cause, and changes nothing else (R201). -/
theorem exec_fatal_spec {i : Instr} {s : State} {c : FaultCode} (h : exec i s = .next (s.raiseFatal c)) :
    ∃ t, exec i s = .next t ∧ t.run = .halted ∧ t.fault = (if s.fault = .none then c else s.fault) ∧
      Frame { run := true, fault := true } s t :=
  ⟨_, h, rfl, rfl, (Frame.refl _ s).raiseFatal rfl rfl c⟩

/-- Settles O26: a stack with room takes the push, a full one is fatal. -/
theorem callPushesAndJumpsOrOverflows : Obligations.CallPushesAndJumpsOrOverflows :=
  fun nnn => ⟨decode_encode (.callAddr nnn), fun _ =>
    ⟨exec_callAddr_pushes nnn, fun hfull => exec_fatal_spec (exec_callAddr_of_full nnn hfull)⟩⟩

/-- Settles O27: a stack with an entry gives it up, an empty one is fatal. -/
theorem returnPopsOrUnderflows : Obligations.ReturnPopsOrUnderflows :=
  ⟨decode_encode .ret, fun _ => ⟨exec_ret_pops, fun hempty => exec_fatal_spec (exec_ret_of_empty hempty)⟩⟩

/-- Settles O28: the return pops the entry the call pushed, since SP points just above it. -/
theorem returnResumesAfterItsCall : Obligations.ReturnResumesAfterItsCall := by
  intro s nnn hlt
  obtain ⟨t, ht, htop, hsp, -, -⟩ := exec_callAddr_pushes nnn hlt
  refine ⟨t, ht, fun pc => ?_⟩
  obtain ⟨u, hu, hpc, hsp', -⟩ := exec_ret_pops (s := { t with pc := pc }) (hsp ▸ Nat.succ_pos _)
  have hpc : u.pc = s.pc := by simpa only [hsp, Nat.add_sub_cancel, htop] using hpc
  exact ⟨u, hu, hpc, Fin.ext (Nat.succ.inj (hsp'.trans hsp))⟩

end Sys2Proof.Machine
end

section
/-! PROOFS. The statements of 41_alu.md: immediate forms and logic (R122 to R127), arithmetic and shifts with VF (R121,
R128 to R132), and the random byte (R133). That an instruction changes nothing else is its row of the access table,
`exec_frame`. -/

namespace Sys2Proof.Machine

/-! ## Immediate forms and logic (R122 to R127) -/

/-- A register reads as what was just written to it (R10). -/
theorem State.setV_getV_self (s : State) (x : Reg) (b : Byte) : (s.setV x b).getV x = b := by
  rw [setV_getV, if_pos rfl]

/-- Settles O30: VX reads as the byte just written to it. -/
theorem loadImmediateWritesVx : Obligations.LoadImmediateWritesVx :=
  fun x nn => ⟨decode_encode (.ldVxByte x nn), fun s =>
    ⟨_, rfl, s.setV_getV_self x nn, exec_frame (i := .ldVxByte x nn) rfl⟩⟩

/-- Settles O31: the byte written is the exact sum modulo 256. -/
theorem addImmediateWrapsWithoutFlag : Obligations.AddImmediateWrapsWithoutFlag :=
  fun x nn => ⟨decode_encode (.addVxByte x nn), fun _ =>
    ⟨_, rfl, by rw [State.setV_getV_self, sum8_toNat], exec_frame (i := .addVxByte x nn) rfl⟩⟩

/-- Settles O32: each of the four writes a byte operation, which acts on each bit alone. -/
theorem copyAndLogicWriteVxOnly : Obligations.CopyAndLogicWriteVxOnly :=
  fun x y => ⟨decode_encode (.ldVxVy x y), decode_encode (.orVxVy x y), decode_encode (.andVxVy x y),
    decode_encode (.xorVxVy x y), fun s =>
    ⟨⟨_, rfl, s.setV_getV_self x _, exec_frame (i := .ldVxVy x y) rfl⟩,
      ⟨_, rfl, fun _ _ => by rw [State.setV_getV_self, BitVec.getLsbD_or], exec_frame (i := .orVxVy x y) rfl⟩,
      ⟨_, rfl, fun _ _ => by rw [State.setV_getV_self, BitVec.getLsbD_and], exec_frame (i := .andVxVy x y) rfl⟩,
      ⟨_, rfl, fun _ _ => by rw [State.setV_getV_self, BitVec.getLsbD_xor], exec_frame (i := .xorVxVy x y) rfl⟩⟩⟩

/-! ## Arithmetic and shifts with VF (R121, R128 to R132) -/

/-- The result ends in VX, also when X = F (R121). -/
theorem State.setFlagThenV_getV_self (s : State) (f : Bool) (x : Reg) (b : Byte) : (s.setFlagThenV f x b).getV x = b := by
  rw [setFlagThenV_getV, if_pos rfl]

/-- The flag ends in VF, unless the result is left there (R121). -/
theorem State.setFlagThenV_getV_VF (s : State) (f : Bool) {x : Reg} (hx : x ≠ VF) (b : Byte) :
    (s.setFlagThenV f x b).getV VF = flagByte f := by
  rw [setFlagThenV_getV, if_neg hx, if_pos rfl]

/-- A flag that decides a comparison, as the byte VF holds. -/
theorem flagByte_decide (p : Prop) [Decidable p] : flagByte (decide p) = if p then 1 else 0 := by
  simp only [flagByte, decide_eq_true_eq]

/-- A bit of a byte as a flag is that binary digit of its number. -/
theorem toNat_flagByte_getLsbD (a : Byte) (k : Nat) : (flagByte (a.getLsbD k)).toNat = a.toNat / 2 ^ k % 2 := by
  have hflag : ∀ f, (flagByte f).toNat = f.toNat := by decide
  rw [hflag, BitVec.getLsbD, Nat.toNat_testBit]

/-- The bit 8XY6 shifts out is the remainder by 2 (R130). -/
theorem toNat_flagByte_lowBit (a : Byte) : (flagByte (lowBit a)).toNat = a.toNat % 2 := by
  rw [lowBit, toNat_flagByte_getLsbD, Nat.pow_zero, Nat.div_one]

/-- The bit 8XYE shifts out is the quotient by 128 (R132): no higher bit is left. -/
theorem toNat_flagByte_highBit (a : Byte) : (flagByte (highBit a)).toNat = a.toNat / 128 := by
  have := a.isLt
  rw [highBit, toNat_flagByte_getLsbD]
  omega

/-- Settles O33: sum and carry are of the operands before any write, and the sum is written last. -/
theorem addLeavesSumAndCarry : Obligations.AddLeavesSumAndCarry :=
  fun x y => ⟨decode_encode (.addVxVy x y), fun _ =>
    ⟨_, rfl, by rw [State.setFlagThenV_getV_self, sum8_toNat],
      fun hx => by rw [State.setFlagThenV_getV_VF _ _ hx, carryFlag, flagByte_decide],
      exec_frame (i := .addVxVy x y) rfl⟩⟩

/-- A subtraction leaves minuend less subtrahend modulo 256 in VX, and the strict comparison in VF unless X = F (R129,
R131). -/
theorem exec_subtract_spec {i : Instr} {s : State} {x : Reg} {a b : Byte}
    (h : exec i s = .next (s.setFlagThenV (greaterFlag a b) x (diff8 a b))) :
    ∃ t, exec i s = .next t ∧ ((t.getV x).toNat : Int) = ((a.toNat : Int) - b.toNat) % 256 ∧
      (x ≠ VF → t.getV VF = if a.toNat > b.toNat then 1 else 0) ∧ Frame { regs := [VF, x] } s t :=
  ⟨_, h, by rw [State.setFlagThenV_getV_self, diff8_toNat],
    fun hx => by rw [State.setFlagThenV_getV_VF _ _ hx, greaterFlag, flagByte_decide],
    (Frame.refl _ s).setFlagThenV (.head _) (.tail _ (.head _)) _ _⟩

/-- Settles O34: the two are one subtraction with the operands exchanged. -/
theorem subtractionsLeaveDifferenceAndStrictFlag : Obligations.SubtractionsLeaveDifferenceAndStrictFlag :=
  fun x y => ⟨decode_encode (.subVxVy x y), decode_encode (.subnVxVy x y), fun _ =>
    ⟨exec_subtract_spec rfl, exec_subtract_spec rfl⟩⟩

/-- Settles O35: halving leaves the remainder in VF, doubling the bit of weight 128. -/
theorem shiftsLeaveTheBitShiftedOut : Obligations.ShiftsLeaveTheBitShiftedOut :=
  fun x y => ⟨decode_encode (.shrVxVy x y), decode_encode (.shlVxVy x y), fun _ =>
    ⟨⟨_, rfl, by rw [State.setFlagThenV_getV_self, shiftRight1_toNat],
        fun hx => by rw [State.setFlagThenV_getV_VF _ _ hx, toNat_flagByte_lowBit],
        exec_frame (i := .shrVxVy x y) rfl⟩,
      ⟨_, rfl, by rw [State.setFlagThenV_getV_self, shiftLeft1_toNat],
        fun hx => by rw [State.setFlagThenV_getV_VF _ _ hx, toNat_flagByte_highBit],
        exec_frame (i := .shlVxVy x y) rfl⟩⟩⟩

/-! ## The random byte (R133) -/

/-- A bit clear in a mask is clear in every byte it masks. -/
theorem getLsbD_and_eq_false (a : Byte) {m : Byte} {k : Nat} (h : m.getLsbD k = false) : (a &&& m).getLsbD k = false := by
  rw [BitVec.getLsbD_and, h, Bool.and_false]

/-- Settles O36: VX holds the masked draw, and the mask alone clears the bits. -/
theorem randomByteIsMasked : Obligations.RandomByteIsMasked :=
  fun x nn => ⟨decode_encode (.rndVxByte x nn), fun s =>
    have hx : (s.consumeDraw.setV x (s.drawByte &&& nn)).getV x = Config.freeDraw s.draws &&& nn :=
      s.consumeDraw.setV_getV_self x _
    ⟨_, rfl, hx, fun _ hk => by rw [hx, getLsbD_and_eq_false _ hk], rfl, exec_frame (i := .rndVxByte x nn) rfl⟩⟩

end Sys2Proof.Machine
end

section
/-! PROOFS. The statements of 42_index_memory.md: what I is loaded with (R140 to R142), the blocks that FX33, FX55 and
FX65 transfer (R143 to R145), and the order of the stores of one block (R146). That an instruction changes nothing else
is its row of the access table, `exec_frame`. -/

namespace Sys2Proof.Machine

/-! ## The index register (R140 to R142) -/

/-- A glyph address fits in 16 bits, so it is the exact sum (R142). -/
theorem toNat_glyphAddress (b : Byte) : (glyphAddress b).toNat = 0x050 + b.toNat * 5 := by
  have := b.isLt
  rw [glyphAddress, fontBase, BitVec.toNat_ofNat]
  omega

/-- FX1E's sum is reduced modulo 2^16 (R141, decision D3). -/
theorem toNat_indexPlus (i : Word) (b : Byte) : (indexPlus i b).toNat = (i.toNat + b.toNat) % 65536 :=
  BitVec.toNat_ofNat _ _

/-- Settles O37, from the values of the two addresses. -/
theorem indexLoadsSetIOnly : Obligations.IndexLoadsSetIOnly :=
  ⟨fun nnn => ⟨decode_encode (.ldIAddr nnn), fun _ =>
      ⟨_, rfl, toNat_zext16 nnn, exec_frame (i := .ldIAddr nnn) rfl⟩⟩,
    fun x => ⟨decode_encode (.ldFVx x), fun _ =>
      ⟨_, rfl, toNat_glyphAddress _, exec_frame (i := .ldFVx x) rfl⟩⟩⟩

/-- Settles O38: the sum is the only write. -/
theorem addToIndexWrapsWithoutFlag : Obligations.AddToIndexWrapsWithoutFlag :=
  fun x => ⟨decode_encode (.addIVx x), fun s =>
    ⟨_, rfl, toNat_indexPlus s.i _, exec_frame (i := .addIVx x) rfl⟩⟩

/-! ## Transfers of a block (R143 to R145) -/

/-- FX33 leaves digit k of VX at I + k (R143). -/
theorem storeBytes_bcdDigits_memRead (s : State) (a : Nat) (b : Byte) (k : Nat) (hk : k < 3) :
    (s.storeBytes a (bcdDigits b)).memRead (a + k) = (bcdDigits b)[k]'(by rwa [length_bcdDigits]) :=
  State.storeBytes_memRead_on a k _ s (by rw [length_bcdDigits]; decide) _

/-- FX55 leaves Vr at I + r, for every r up to X (R144). -/
theorem storeBytes_regBytes_memRead (s : State) (a : Nat) {x r : Reg} (hr : r.val ≤ x.val) :
    (s.storeBytes a (s.regBytes x)).memRead (a + r.val) = s.getV r := by
  have hlen : (s.regBytes x).length ≤ Config.memSize := by
    rw [State.length_regBytes]
    exact x.isLt.trans (by decide)
  have hk : r.val < (s.regBytes x).length := by
    rw [State.length_regBytes]
    exact Nat.lt_succ_of_le hr
  rw [State.storeBytes_memRead_on a r.val _ s hlen hk, State.getElem_regBytes s x r hr]

/-- Settles O39: the digits are a block of three bytes at I. -/
theorem decimalDigitsAreStoredAtI : Obligations.DecimalDigitsAreStoredAtI := by
  refine fun x => ⟨decode_encode (.ldBVx x), fun s => ?_⟩
  obtain ⟨hundreds, tens, units⟩ := toNat_bcdDigits (s.getV x)
  have stored := storeBytes_bcdDigits_memRead s s.i.toNat (s.getV x)
  exact ⟨_, rfl, (congrArg _ (stored 0 (by decide))).trans hundreds, (congrArg _ (stored 1 (by decide))).trans tens,
    (congrArg _ (stored 2 (by decide))).trans units, exec_frame (i := .ldBVx x) rfl⟩

/-- Settles O40: byte r of the block stored at I is Vr. -/
theorem registerBlockIsStoredAtI : Obligations.RegisterBlockIsStoredAtI :=
  fun x => ⟨decode_encode (.ldMemIVx x), fun s =>
    ⟨_, rfl, fun _ hr => storeBytes_regBytes_memRead s _ hr, exec_frame (i := .ldMemIVx x) rfl⟩⟩

/-- Settles O41: V0 to VX are the registers loaded, each from its own offset. -/
theorem registerBlockIsLoadedFromI : Obligations.RegisterBlockIsLoadedFromI :=
  fun x => ⟨decode_encode (.ldVxMemI x), fun _ =>
    ⟨_, rfl, fun r hr => by rw [State.loadRegs_getV, if_pos ((State.mem_regsUpTo x r).mpr hr)],
      fun r hr => by rw [State.loadRegs_getV, if_neg fun hmem => hr.not_ge ((State.mem_regsUpTo x r).mp hmem)],
      exec_frame (i := .ldVxMemI x) rfl⟩⟩

/-! ## The order of the stores of one block (R146) -/

/-- Stores in any order: if every store that hits the byte at c stores b, and that byte was b already when none hits it,
it reads b afterwards. Only which stores there are is asked, not their order. -/
theorem foldl_memWrite_memRead {ps : List (Nat × Byte)} {s : State} {c : Nat} {b : Byte}
    (hit : ∀ p ∈ ps, ea c = ea p.1 → p.2 = b) (missed : (∀ p ∈ ps, ea c ≠ ea p.1) → s.memRead c = b) :
    (ps.foldl (fun t p => t.memWrite p.1 p.2) s).memRead c = b := by
  induction ps generalizing s with
  | nil => exact missed nofun
  | cons p ps ih =>
    refine ih (fun q hq => hit q (.tail _ hq)) fun later => ?_
    rw [State.memWrite_memRead]
    split
    case isTrue h => exact hit p (.head _) h
    case isFalse h => exact missed (List.forall_mem_cons.mpr ⟨h, later⟩)

/-- The stores of a block: byte k at a + k (R56). -/
theorem mem_map_zipIdx {a : Nat} {bs : List Byte} {p : Nat × Byte} :
    p ∈ bs.zipIdx.map (fun q => (a + q.2, q.1)) ↔ ∃ k, ∃ h : k < bs.length, p = (a + k, bs[k]) := by
  simp only [List.mem_map, List.mem_zipIdx_iff_getElem?, List.getElem?_eq_some_iff, Prod.exists]
  constructor
  · rintro ⟨b, k, ⟨hk, hb⟩, rfl⟩
    exact ⟨k, hk, by rw [hb]⟩
  · rintro ⟨k, hk, rfl⟩
    exact ⟨_, k, ⟨hk, rfl⟩, rfl⟩

/-- Settles O45: each byte of memory is hit by at most one store of the block, so the set of stores fixes what it reads. -/
theorem storeOrderWithinOneBlockCannotBeObserved : Obligations.StoreOrderWithinOneBlockCannotBeObserved := by
  intro s a bs ps hlen hperm c
  have stores (p : Nat × Byte) : p ∈ ps ↔ ∃ k, ∃ h : k < bs.length, p = (a + k, bs[k]) :=
    hperm.mem_iff.trans mem_map_zipIdx
  refine foldl_memWrite_memRead (fun p hp hea => ?_) fun missed => ?_
  · obtain ⟨k, hk, rfl⟩ := (stores p).mp hp
    rw [State.memRead_congr hea, State.storeBytes_memRead_on a k bs s (hlen.trans (by decide)) hk]
  · rw [State.storeBytes_memRead_off a c bs s fun k hk => missed _ ((stores _).mpr ⟨k, hk, rfl⟩)]

end Sys2Proof.Machine
end

section
/-! PROOFS. The statements of 43_sprite_xor.md: 00E0 (R160), what one DXYN does to the framebuffer and to VF (R161 to
R165), and the second draw of the same sprite (R166). What the draw loop does to a canvas is said by `Canvas.plotRows_pixel`
and `Canvas.plotRows_hit`; here the canvas is the framebuffer and its rows are the set M of R165. -/

namespace Sys2Proof.Machine

/-! ## The framebuffer clear (R160) -/

/-- Settles O46: the blank framebuffer is the only write. -/
theorem clearLeavesABlankFramebuffer : Obligations.ClearLeavesABlankFramebuffer :=
  ⟨decode_encode .cls, fun _ => ⟨_, rfl, fun px _ py _ => FrameBuffer.pixel_blank px py, exec_frame (i := .cls) rfl⟩⟩

/-! ## The sprite's positions (R161 to R163, R165) -/

/-- The set bits that the loop of R162 plots are the set M of R165. -/
theorem inRows_spriteBytes_iff {s : State} {x y : Reg} {n : Nibble} {px py : Nat} :
    Canvas.InRows (spriteColumn (s.getV x)) (spriteRow (s.getV y)) (s.spriteBytes n.val) px py ↔
      OnSprite s x y n px py := by
  simp only [Canvas.InRows, Canvas.InRow, State.spriteBytes, List.length_map, List.length_range, List.getElem_map,
    List.getElem_range]
  constructor
  · rintro ⟨row, hrow, hx, hy, col, hcol, hbit, hpx, hpy⟩
    exact ⟨row, col, hrow, hcol, hbit, hpx, hpy, hx, hy⟩
  · rintro ⟨row, col, hrow, hcol, hbit, hpx, hpy, hx, hy⟩
    exact ⟨row, hrow, hx, hy, col, hcol, hbit, hpx, hpy⟩

/-- M is made of VX, VY, I and the sprite bytes, and of nothing else. -/
theorem onSprite_congr {s s' : State} {x y : Reg} {n : Nibble} (hx : s'.getV x = s.getV x) (hy : s'.getV y = s.getV y)
    (hi : s'.i = s.i) (hbytes : ∀ row < n.val, s'.memRead (s.i.toNat + row) = s.memRead (s.i.toNat + row))
    (px py : Nat) : OnSprite s' x y n px py ↔ OnSprite s x y n px py := by
  have hsprite : s'.spriteBytes n.val = s.spriteBytes n.val :=
    List.map_congr_left fun row hrow => by rw [hi, hbytes row (List.mem_range.mp hrow)]
  rw [← inRows_spriteBytes_iff, ← inRows_spriteBytes_iff, hx, hy, hsprite]

/-! ## One draw (R162 to R165) -/

/-- A flag byte is 1 when the flag is set. -/
theorem flagByte_eq_one_iff (f : Bool) : flagByte f = 1 ↔ f = true := by cases f <;> decide

/-- A flag byte is 0 when the flag is clear. -/
theorem flagByte_eq_zero_iff (f : Bool) : flagByte f = 0 ↔ f = false := by cases f <;> decide

section Draw

variable {x y : Reg} {n : Nibble} {s t : State}

/-- A draw XORs the framebuffer with M: a pixel ends set when it was set off M or clear on M (R165). -/
theorem drw_pixel_iff (h : exec (.drwVxVyNibble x y n) s = .next t) (px py : Nat) :
    t.fb.pixel px py = true ↔ (s.fb.pixel px py = true ↔ ¬OnSprite s x y n px py) := by
  cases h
  rw [← inRows_spriteBytes_iff]
  exact Canvas.plotRows_pixel _ _ _ ⟨s.fb, false⟩ px py

/-- On the sprite a pixel is flipped. -/
theorem drw_pixel_of_onSprite (h : exec (.drwVxVyNibble x y n) s = .next t) {px py : Nat}
    (hon : OnSprite s x y n px py) : t.fb.pixel px py = !s.fb.pixel px py := by
  rw [Bool.eq_iff_iff, drw_pixel_iff h, Bool.not_eq_true', ← Bool.not_eq_true, iff_false_right (not_not.mpr hon)]

/-- Off the sprite a pixel is unchanged. -/
theorem drw_pixel_of_not_onSprite (h : exec (.drwVxVyNibble x y n) s = .next t) {px py : Nat}
    (hoff : ¬OnSprite s x y n px py) : t.fb.pixel px py = s.fb.pixel px py := by
  rw [Bool.eq_iff_iff, drw_pixel_iff h, iff_true_right hoff]

/-- VF after a draw is the collision latch: set when some position of the sprite was set before (R164). -/
theorem drw_VF (h : exec (.drwVxVyNibble x y n) s = .next t) :
    ∃ hit, t.getV VF = flagByte hit ∧ (hit = true ↔ ∃ px py, OnSprite s x y n px py ∧ s.fb.pixel px py = true) := by
  cases h
  refine ⟨_, State.setV_getV_self _ _ _, ?_⟩
  rw [Canvas.plotRows_hit]
  simp only [inRows_spriteBytes_iff, Bool.false_eq_true, false_or]

/-- VF is 1 after a draw with a collision, and only then (R164). -/
theorem drw_VF_eq_one_iff (h : exec (.drwVxVyNibble x y n) s = .next t) :
    t.getV VF = 1 ↔ ∃ px py, OnSprite s x y n px py ∧ s.fb.pixel px py = true := by
  obtain ⟨hit, hVF, hhit⟩ := drw_VF h
  rw [hVF, flagByte_eq_one_iff, hhit]

/-- VF is 0 after a draw with no collision, and only then (R164). -/
theorem drw_VF_eq_zero_iff (h : exec (.drwVxVyNibble x y n) s = .next t) :
    t.getV VF = 0 ↔ ∀ px py, OnSprite s x y n px py → s.fb.pixel px py = false := by
  obtain ⟨hit, hVF, hhit⟩ := drw_VF h
  rw [hVF, flagByte_eq_zero_iff, ← Bool.not_eq_true, hhit]
  simp only [not_exists, not_and, Bool.not_eq_true]

/-- The pixels a draw turns off are the positions of the sprite that were set before. -/
theorem drw_turns_off_iff (h : exec (.drwVxVyNibble x y n) s = .next t) (px py : Nat) :
    (px < 64 ∧ py < 32 ∧ s.fb.pixel px py = true ∧ t.fb.pixel px py = false) ↔
      (OnSprite s x y n px py ∧ s.fb.pixel px py = true) := by
  constructor
  · rintro ⟨-, -, hset, hoff⟩
    refine ⟨by_contra fun hon => ?_, hset⟩
    rw [drw_pixel_of_not_onSprite h hon, hset] at hoff
    exact Bool.noConfusion hoff
  · rintro ⟨hon, hset⟩
    have ⟨_, _, _, _, _, _, _, hpx, hpy⟩ := hon
    exact ⟨hpx, hpy, hset, by rw [drw_pixel_of_onSprite h hon, hset, Bool.not_true]⟩

end Draw

/-- Settles O47: the pixels and the latch of one draw, from `drw_pixel_iff` and `drw_VF`. -/
theorem drawXorsTheSpriteAndLatchesCollision : Obligations.DrawXorsTheSpriteAndLatchesCollision := by
  refine fun x y n => ⟨decode_encode (.drwVxVyNibble x y n), fun s => ?_⟩
  obtain ⟨t, ht⟩ := exec_total (.drwVxVyNibble x y n) s
  exact ⟨t, ht, fun _ _ _ _ => drw_pixel_of_onSprite ht, fun _ _ _ _ => drw_pixel_of_not_onSprite ht,
    (drw_VF_eq_one_iff ht).mpr, (drw_VF_eq_zero_iff ht).mpr, exec_frame ht⟩

/-- Settles O48: the positions of a collision are the pixels turned off. -/
theorem collisionMeansAPixelWasTurnedOff : Obligations.CollisionMeansAPixelWasTurnedOff := by
  intro x y n s
  obtain ⟨t, ht⟩ := exec_total (.drwVxVyNibble x y n) s
  obtain ⟨hit, hVF, -⟩ := drw_VF ht
  refine ⟨t, ht, ?_, ?_⟩
  · simp only [drw_turns_off_iff ht, drw_VF_eq_one_iff ht]
  · rw [hVF, flagByte_eq_one_iff, flagByte_eq_zero_iff]
    exact hit.eq_false_or_eq_true

/-! ## Two draws (R166) -/

/-- Flipping the same positions twice restores every pixel (R166). -/
theorem drw_drw_fb {x y : Reg} {n : Nibble} {s t t' u : State} (ht : exec (.drwVxVyNibble x y n) s = .next t)
    (hu : exec (.drwVxVyNibble x y n) t' = .next u) (hfb : t'.fb = t.fb)
    (hM : ∀ px py, OnSprite t' x y n px py ↔ OnSprite s x y n px py) : u.fb = s.fb := by
  refine FrameBuffer.ext_pixel fun px py => ?_
  by_cases hon : OnSprite s x y n px py
  · rw [drw_pixel_of_onSprite hu ((hM px py).mpr hon), hfb, drw_pixel_of_onSprite ht hon, Bool.not_not]
  · rw [drw_pixel_of_not_onSprite hu (mt (hM px py).mp hon), hfb, drw_pixel_of_not_onSprite ht hon]

/-- The second draw collides where the first one set a pixel (90_conflicts.md C8). -/
theorem drw_drw_VF_eq_one_iff {x y : Reg} {n : Nibble} {s t t' u : State}
    (ht : exec (.drwVxVyNibble x y n) s = .next t) (hu : exec (.drwVxVyNibble x y n) t' = .next u)
    (hfb : t'.fb = t.fb) (hM : ∀ px py, OnSprite t' x y n px py ↔ OnSprite s x y n px py) :
    u.getV VF = 1 ↔ ∃ px py, OnSprite s x y n px py ∧ s.fb.pixel px py = false := by
  rw [drw_VF_eq_one_iff hu, hfb]
  refine exists₂_congr fun px py => (and_congr_left' (hM px py)).trans (and_congr_right fun hon => ?_)
  rw [drw_pixel_of_onSprite ht hon, Bool.not_eq_true']

/-- Settles O49: the first draw leaves VX, VY and I as they were, so the second one draws the same positions. -/
theorem secondDrawRestoresTheFramebuffer : Obligations.SecondDrawRestoresTheFramebuffer := by
  intro x y n s hx hy
  obtain ⟨t, ht⟩ := exec_total (.drwVxVyNibble x y n) s
  refine ⟨t, ht, fun t' hfb htx hty hti hbytes => ?_⟩
  obtain ⟨u, hu⟩ := exec_total (.drwVxVyNibble x y n) t'
  have first : Frame { regs := [VF], fb := true } s t := exec_frame ht
  have hM := onSprite_congr (htx.trans (first.regs x (by simpa using hx))) (hty.trans (first.regs y (by simpa using hy)))
    (hti.trans (first.i rfl)) hbytes
  exact ⟨u, hu, drw_drw_fb ht hu hfb hM, drw_drw_VF_eq_one_iff ht hu hfb hM⟩

end Sys2Proof.Machine
end

section
/-! PROOFS. The statements of 44_timers_keys.md: the key skips (R180, R181, R187), the key wait (R183), the timer
transfers (R182, R184, R185) and the tick (R186). -/

namespace Sys2Proof.Machine

/-! ## The key wait (R183) -/

/-- R183's choice of a key, as a condition on the key levels (decision D7). -/
theorem State.leastKey_eq_some_iff {s : State} {k : Fin 16} :
    s.leastKey = some k ↔ s.keyDown k = true ∧ ∀ j < k, s.keyDown j = false := by
  refine ⟨leastKey_some, fun ⟨hk, hbelow⟩ => ?_⟩
  cases hleast : s.leastKey with
  | none => exact absurd hk (Bool.eq_false_iff.mp (leastKey_none.mp hleast k))
  | some j =>
    obtain ⟨hj, hbelow'⟩ := leastKey_some hleast
    have hkj : k ≤ j := not_lt.mp fun hlt => Bool.eq_false_iff.mp (hbelow j hlt) hj
    have hjk : j ≤ k := not_lt.mp fun hlt => Bool.eq_false_iff.mp (hbelow' k hlt) hk
    rw [le_antisymm hjk hkj]

/-- Every key number fits in a byte. -/
theorem toNat_byteOfKey (k : Fin 16) : (byteOfKey k).toNat = k.val := by
  rw [byteOfKey, BitVec.toNat_ofNat]
  omega

/-- The rewind of the key wait undoes the fetch advance (R100, R183). -/
theorem State.rewindPc_advancePc (s : State) : s.advancePc.rewindPc = s :=
  congrArg s.setPc (BitVec.add_sub_cancel s.pc 2)

/-- Settles O7: with no key pressed FX0A only puts back the PC that the fetch advance moved. -/
theorem keyWaitStepChangesNothing : Obligations.KeyWaitStepChangesNothing := by
  intro s x hrun hword hnone
  have hwait : s.advancePc.leastKey = none := State.leastKey_none.mpr hnone
  calc step s = exec (.ldVxK x) s.advancePc := step_of_fetchWord_eq hrun hword
    _ = .next s.advancePc.rewindPc := exec_ldVxK_of_none x hwait
    _ = .next s := by rw [s.rewindPc_advancePc]

/-- Settles O51: the key taken is the one the least-key search answers, and without an answer FX0A rewinds PC. -/
theorem keyWaitTakesTheLeastPressedKey : Obligations.KeyWaitTakesTheLeastPressedKey := by
  refine fun x => ⟨decode_encode (.ldVxK x), fun s => ⟨fun k hk hbelow => ?_, fun hnone => ?_⟩⟩
  · have htake := exec_ldVxK_of_some x (State.leastKey_eq_some_iff.mpr ⟨hk, hbelow⟩)
    exact ⟨_, htake, by rw [State.setV_getV_self, toNat_byteOfKey], (Frame.refl _ s).setV (.head _) _⟩
  · have hwait := exec_ldVxK_of_none x (State.leastKey_none.mpr hnone)
    exact ⟨_, hwait, s.rewindPc_pc, (Frame.refl _ s).setPc rfl _⟩

/-! ## The key skips (R180, R181, R187) -/

/-- Settles O50: both are conditional skips, on the level of key VX modulo 16 and on its negation. -/
theorem keySkipsReadTheKeyLevel : Obligations.KeySkipsReadTheKeyLevel := by
  refine fun x => ⟨decode_encode (.skpVx x), decode_encode (.sknpVx x), fun s k hk => ?_⟩
  have hindex : keyIndex (s.getV x) = k := Fin.ext hk.symm
  subst hindex
  exact ⟨exec_skip_spec rfl rfl, exec_skip_spec rfl (by simp only [Bool.not_eq_true', ← Bool.not_eq_true, ite_not])⟩

/-! ## The timers (R182, R184 to R186) -/

/-- Settles O52: each of the three is one write, of the byte it copies. -/
theorem timerTransfersCopyOneByte : Obligations.TimerTransfersCopyOneByte :=
  fun x => ⟨decode_encode (.ldVxDT x), decode_encode (.ldDTVx x), decode_encode (.ldSTVx x), fun s =>
    ⟨⟨_, rfl, s.setV_getV_self x s.dt, exec_frame (i := .ldVxDT x) rfl⟩,
      ⟨_, rfl, s.setDt_dt (s.getV x), exec_frame (i := .ldDTVx x) rfl⟩,
      ⟨_, rfl, s.setSt_st (s.getV x), exec_frame (i := .ldSTVx x) rfl⟩⟩⟩

/-- A count-down stops at zero, as subtraction of naturals does (R186). -/
theorem toNat_countDown (b : Byte) : (countDown b).toNat = b.toNat - 1 := by
  by_cases hpos : b.toNat > 0
  · rw [countDown, if_pos hpos]
    exact BitVec.toNat_sub_of_le hpos
  · rw [countDown, if_neg hpos]
    omega

/-- A tick is one write to each timer. -/
theorem State.tick_eq (s : State) : s.tick = (s.setDt (countDown s.dt)).setSt (countDown s.st) := rfl

/-- A tick is offered in Running, and elsewhere as the host parameter says (decision D26, entry 6). -/
theorem offered_tick_iff {s : State} :
    HostAction.offered .tick s = true ↔ s.run = .running ∨ Config.hostTicksWhenNotRunning = true := by
  rw [HostAction.offered, Bool.or_eq_true, State.executes_iff]

/-- Settles O59, from the two count-downs. -/
theorem tickCountsEachTimerDown : Obligations.TickCountsEachTimerDown := by
  intro s
  have hframe : Frame { dt := true, st := true } s s.tick :=
    s.tick_eq ▸ ((Frame.refl _ s).setDt rfl _).setSt rfl _
  exact ⟨toNat_countDown s.dt, toNat_countDown s.st, hframe, offered_tick_iff⟩

end Sys2Proof.Machine
end

section
/-! PROOFS. The statements of 60_exceptions.md: the fatal errors (R201 to R203) and the unrecognised word (R205). -/

namespace Sys2Proof.Machine

/-! ## The unrecognised word (R205) -/

theorem Frame.reportUnknown {p : Parts} {s t : State} (h : Frame p s t) (hp : p.reports = true) (op addr : Word) :
    Frame p s (t.reportUnknown op addr) :=
  { h with reports := fun hf => nomatch hp.symm.trans hf }

/-- Settles O3: such a step is the fetch advance followed by one report. -/
theorem unrecognisedWordIsReportedAndSkipped : Obligations.UnrecognisedWordIsReportedAndSkipped :=
  fun s _ hrun hd =>
    ⟨s.advancePc.reportUnknown s.fetchWord s.pc, step_of_decode_error hrun hd, rfl, rfl,
      ((Frame.refl _ s).setPc rfl _).reportUnknown rfl _ _⟩

/-! ## The fatal step (R201 to R203) -/

/-- The block is about to execute the instruction that c is the error of: 2NNN on a full stack (R202), or 00EE on an empty
one (R203). -/
def FatalCause (s : State) : FaultCode → Prop
  | .stackOverflow => s.sp.val = Config.stackDepth ∧ ∃ nnn, decode s.fetchWord = .ok (.callAddr nnn)
  | .stackUnderflow => s.sp.val = 0 ∧ decode s.fetchWord = .ok .ret
  | .none => False

/-- A step with a fatal cause is the fetch advance followed by the fatal entry (R201). -/
theorem step_of_fatalCause {s : State} {c : FaultCode} (hrun : s.run = .running) (hc : FatalCause s c) :
    step s = .next (s.advancePc.raiseFatal c) := by
  cases c with
  | stackOverflow =>
    obtain ⟨hfull, nnn, hd⟩ := hc
    exact (step_of_decode_ok hrun hd).trans (exec_callAddr_of_full nnn hfull)
  | stackUnderflow =>
    obtain ⟨hempty, hd⟩ := hc
    exact (step_of_decode_ok hrun hd).trans (exec_ret_of_empty hempty)
  | none => exact hc.elim

/-- The access table lets an instruction write FAULT only at the stack depth at which it is fatal (R23). -/
theorem writesOf_fault_depth {i : Instr} {s : State} (h : (writesOf i s).fault = true) :
    (s.sp.val = Config.stackDepth ∧ ∃ nnn, i = .callAddr nnn) ∨ (s.sp.val = 0 ∧ i = .ret) := by
  rcases writesOf_fault h with rfl | ⟨nnn, rfl⟩ <;> simpa [writesOf, apply_ite Parts.fault] using h

/-- A step that changes FAULT had a fatal cause. -/
theorem exists_fatalCause_of_fault_ne {s t : State} (h : step s = .next t) (hne : t.fault ≠ s.fault) :
    ∃ c, FatalCause s c := by
  obtain ⟨i, hd, hx, hne⟩ := step_changed State.fault (fun _ => rfl) (fun _ _ _ => rfl) h hne
  have hwrites : (writesOf i s.advancePc).fault = true := Bool.eq_true_of_not_eq_false (mt (exec_frame hx).fault hne)
  rcases writesOf_fault_depth hwrites with ⟨hfull, nnn, rfl⟩ | ⟨hempty, rfl⟩
  · exact ⟨.stackOverflow, hfull, nnn, hd⟩
  · exact ⟨.stackUnderflow, hempty, hd⟩

/-- With FAULT None, a step with a fatal cause records it (R201). -/
theorem fault_of_fatalCause {s t : State} {c : FaultCode} (hrun : s.run = .running) (hnone : s.fault = .none)
    (h : step s = .next t) (hc : FatalCause s c) : t.fault = c := by
  cases (step_of_fatalCause hrun hc).symm.trans h
  exact if_pos hnone

/-- With FAULT None, a step of a running block records a cause exactly when it has that cause. -/
theorem fault_eq_iff_fatalCause {s t : State} {c : FaultCode} (hrun : s.run = .running) (hnone : s.fault = .none)
    (h : step s = .next t) (hc : c ≠ .none) : t.fault = c ↔ FatalCause s c := by
  refine ⟨fun hfault => ?_, fault_of_fatalCause hrun hnone h⟩
  have hne : t.fault ≠ s.fault := by rwa [hfault, hnone]
  obtain ⟨c', hc'⟩ := exists_fatalCause_of_fault_ne h hne
  have heq : c' = c := (fault_of_fatalCause hrun hnone h hc').symm.trans hfault
  exact heq ▸ hc'

/-- Settles O53: each of the two causes is recorded exactly when the step has it. -/
theorem stackFaultsComeOnlyFromCallAndReturn : Obligations.StackFaultsComeOnlyFromCallAndReturn :=
  fun _ _ hrun hnone h =>
    ⟨fault_eq_iff_fatalCause (c := .stackOverflow) hrun hnone h nofun,
      fault_eq_iff_fatalCause (c := .stackUnderflow) hrun hnone h nofun⟩

/-- Settles O54: the fatal entry after the fetch advance writes RUN and FAULT, and a halted block does not step. -/
theorem fatalErrorsArePreciseAndHalt : Obligations.FatalErrorsArePreciseAndHalt := by
  intro s c hrun h
  have hc : FatalCause s c := by
    rcases h with ⟨rfl, hoverflow⟩ | ⟨rfl, hunderflow⟩
    · exact hoverflow
    · exact hunderflow
  exact ⟨s.advancePc.raiseFatal c, step_of_fatalCause hrun hc, rfl, rfl, rfl,
    ((Frame.refl _ s).setPc rfl _).raiseFatal rfl rfl c, step_of_not_running nofun⟩

end Sys2Proof.Machine
end

section
/-! PROOFS. The statements of 70_reset_and_hazards.md: the state after reset (R230, R231), and the accepted and the failed
load (R230, R233, R234). -/

namespace Sys2Proof.Machine

/-! ## The load (R230, R233, R234) -/

/-- A new life of the machine is the reset state but for the draw counter (R230, entry 7). -/
theorem renewed_frame {p : Parts} (hp : p.draws = true) (s : State) : Frame p State.reset s.renewed :=
  { Frame.refl p State.reset with draws := fun hf => nomatch hp.symm.trans hf }

/-- A failed load is the reset state but for RUN and the draw counter (R233, entry 7). -/
theorem failedLoad_frame {p : Parts} (hr : p.run = true) (hd : p.draws = true) (s : State) :
    Frame p State.reset s.failedLoad :=
  (renewed_frame hd s).setRun hr .halted

@[simp] theorem State.failedLoad_run (s : State) : s.failedLoad.run = .halted := rfl

/-- An image of at most PROG_MAX bytes is stored at 0x200 upward (R233). -/
theorem State.load_of_le {image : List Byte} (h : image.length ≤ Config.progMax) (s : State) :
    s.load image = (s.renewed.storeBytes Config.progBase image, .ok) := by
  rw [load, if_pos h]

/-- A longer image is a failed load (R233). -/
theorem State.load_of_gt {image : List Byte} (h : Config.progMax < image.length) (s : State) :
    s.load image = (s.failedLoad, .programTooLarge) := by
  rw [load, if_neg h.not_ge]

/-- An accepted image ends at or below the top of memory, so its addresses do not wrap (R53, R233). -/
theorem mem_blockAddrs_progBase {n a : Nat} (hn : n ≤ Config.progMax) (ha : a < Config.memSize) :
    ea a ∈ blockAddrs Config.progBase n ↔ Config.progBase ≤ a ∧ a < Config.progBase + n := by
  rw [State.mem_blockAddrs, ea_of_lt ha]
  have hend : Config.progBase + n ≤ Config.memSize := Nat.add_le_of_le_sub' (by decide) hn
  constructor
  · rintro ⟨k, hk, rfl⟩
    rw [ea_of_lt (by omega)]
    omega
  · rintro ⟨hlo, hhi⟩
    exact ⟨a - Config.progBase, by omega, by rw [Nat.add_sub_cancel' hlo, ea_of_lt ha]⟩

/-- Settles O57: the image is one block of stores on the renewed state, inside memory. -/
theorem acceptedLoadCopiesTheImage : Obligations.AcceptedLoadCopiesTheImage := by
  intro s image hlen
  have hframe : Frame { mem := blockAddrs Config.progBase image.length, draws := true } State.reset
      (s.renewed.storeBytes Config.progBase image) :=
    (renewed_frame rfl s).storeBytes fun k hk => State.mem_blockAddrs.mpr ⟨k, hk, rfl⟩
  rw [s.load_of_le hlen]
  refine ⟨rfl, fun j hj => ?_, fun a ha hoff => hframe.mem a fun hon => ?_, hframe⟩
  · exact State.storeBytes_memRead_on _ j image _ (hlen.trans (by decide)) hj
  · obtain ⟨hlo, hhi⟩ := (mem_blockAddrs_progBase hlen ha).mp hon
    exact hoff.elim hlo.not_gt hhi.not_ge

/-- Settles O58: both failures answer the failed load, which is halted and so does not step. -/
theorem failedLoadHaltsTheResetState : Obligations.FailedLoadHaltsTheResetState := by
  intro s image
  have hframe : Frame { run := true, draws := true } State.reset s.failedLoad := failedLoad_frame rfl rfl s
  refine ⟨fun hlen => ?_, rfl, s.failedLoad_run, hframe⟩
  rw [s.load_of_gt hlen]
  exact ⟨rfl, s.failedLoad_run, hframe, step_of_not_running nofun⟩

/-! ## The reset state (R230, R231) -/

/-- The glyph table stands at FONT_BASE (R54, R55). -/
theorem resetByte_fontBase_add {j : Nat} (h : j < fontTable.length) : resetByte (fontBase + j) = fontTable[j] := by
  rw [resetByte, if_pos (Nat.le_add_right _ _), Nat.add_sub_cancel_left, List.getD_eq_getElem _ _ h]

/-- Off the glyph table memory resets to zero (R50, decision D13). -/
theorem resetByte_off_font {a : Nat} (h : a < fontBase ∨ fontBase + fontTable.length ≤ a) : resetByte a = 0x00 := by
  rw [resetByte]
  split
  case isTrue hge => exact List.getD_eq_default _ _ (by omega)
  case isFalse => rfl

/-- After reset no address is listed, so each reads as its reset content. -/
theorem State.reset_memRead {a : Nat} (h : a < Config.memSize) : State.reset.memRead a = resetByte a := by
  rw [memRead, ea_of_lt h]
  rfl

@[simp] theorem State.reset_getV (r : Reg) : State.reset.getV r = 0x00 := Vector.getElem_replicate r.isLt

@[simp] theorem State.reset_keyDown (k : Fin Config.nkeys) : State.reset.keyDown k = false :=
  Vector.getElem_replicate k.isLt

/-- Settles O8: after reset memory is the empty list and no fault is recorded. -/
theorem resetStateMeetsInvariant : Obligations.ResetStateMeetsInvariant :=
  inv_of_no_fault Memory.wf_nil rfl

/-- Settles O56: memory is the glyph table and zeros, and every other field is as State.reset says. -/
theorem resetStateValues : Obligations.ResetStateValues := by
  refine ⟨State.reset_getV, rfl, rfl, rfl, fun k hk => Vector.getElem_replicate hk, rfl, rfl,
    fun px _ py _ => FrameBuffer.pixel_blank px py, State.reset_keyDown, rfl, rfl, fun a ha hoff => ?_, fun j hj => ?_⟩
  · rw [State.reset_memRead ha]
    exact resetByte_off_font hoff
  · have hmem : 0x050 + j < Config.memSize := (Nat.add_lt_add_left hj _).trans (by decide)
    rw [State.reset_memRead hmem]
    exact resetByte_fontBase_add hj

end Sys2Proof.Machine
end
